-- ==== Sys2Proof/Word.lean ====
section
/-!
DEFINITION. The word types of the block: every access it makes is one byte wide (20_memory.md R57), and its
working registers have the widths of 10_state.md (R20 to R25).
-/

namespace Sys2Proof

/-- A byte: 8 bits, bit 7 the most significant (00_scope.md R13). -/
abbrev Byte := BitVec 8

/-- The count field of a control byte and the register `n`: 7 bits (10_state.md R23). -/
abbrev Count := BitVec 7

/-- The read cursor `i`, the block's program counter: `IW` = 9 bits (10_state.md R24). -/
abbrev ReadCursor := BitVec 9

/-- The write cursor `cursor`: `CW` = 16 bits (10_state.md R25). -/
abbrev WriteCursor := BitVec 16

/-- A sub-frame index register: 8 bits (10_state.md R31, R32). -/
abbrev SubFrame := BitVec 8

end Sys2Proof
end

