-- ==== Sys2Proof/Syntax.lean ====
section
/-!
DEFINITION. The instructions of an Encoded Frame: one constructor per row of spec/opcode_table.json. There are exactly
the header and two segment kinds (00_scope.md R3, R81 of 30_encoding.md).
-/

namespace Sys2Proof

/-- An item of an Encoded Frame with its operands. -/
inductive Instr where
  /-- HDR: the byte at offset 0, `L`, the length of the whole frame in bytes, itself included (30_encoding.md R71). -/
  | hdr (l : Byte)
  /-- LIT: a literal run, its count field and the literal bytes that follow (30_encoding.md R73). -/
  | lit (n : Count) (bytes : List Byte)
  /-- REP: a repeat run, its count and its fill value (30_encoding.md R74). -/
  | rep (n : Count) (v : Byte)
deriving DecidableEq, Repr

/-- Where in a frame an item stands. The header is told by its position, never by its bits (30_encoding.md R81). -/
inductive Position where
  /-- Offset 0 of the frame. -/
  | header
  /-- A segment boundary, at offset 1 or above. -/
  | segment
deriving DecidableEq, Repr

/-- The position at which an item is decoded. -/
def Instr.position : Instr → Position
  | .hdr _ => .header
  | .lit _ _ => .segment
  | .rep _ _ => .segment

/-- The bytes an item writes to the canvas, in order (`expand` of 40_decoder_segments.md R96; the header writes none). -/
def Instr.expand : Instr → List Byte
  | .hdr _ => []
  | .lit _ bytes => bytes
  | .rep n v => List.replicate n.toNat v

/-- The number of frame bytes an item occupies (30_encoding.md R71, R73, R74). -/
def Instr.size : Instr → Nat
  | .hdr _ => 1
  | .lit _ bytes => 1 + bytes.length
  | .rep _ _ => 2

end Sys2Proof
end

