-- ==== Sys2Proof/WellFormed.lean ====
section
/-!
DEFINITION. Well-formed instructions: those some bytes of a frame stand for. (Well-formed FRAMES, 30_encoding.md R80,
are in Safety.lean: that predicate reads the Frame Store.)
-/

namespace Sys2Proof

/-- A literal run carries as many bytes as its count field says (30_encoding.md R73, R75); every header and every
repeat run is an instruction (R71, R74). -/
def Instr.wf : Instr → Bool
  | .hdr _ => true
  | .lit n bytes => bytes.length == n.toNat
  | .rep _ _ => true

/-- A segment, as against a header: what may follow offset 0 of a frame (30_encoding.md R70). -/
def Instr.isSegment (i : Instr) : Bool := decide (i.position = .segment)

/-- The non-canonical literal run of count 0, control byte 0x80 (30_encoding.md R78). -/
def Instr.isLit0 : Instr → Bool
  | .hdr _ => false
  | .lit n _ => n == 0
  | .rep _ _ => false

end Sys2Proof
end

