-- ==== Sys2Proof/Decode.lean ====
section
/-!
DEFINITION. The decoder from bytes to instructions, the encoder, the assembler of frames, and the reading of a
word of spec/opcode_table.json. Encodings: 30_encoding.md section 2.
-/

namespace Sys2Proof

/-- Bit 7 of a control byte, the only opcode bit: set is LIT, clear is REP (30_encoding.md R72, R81). -/
def isLiteral (c : Byte) : Bool := c.getLsbD 7

/-- The count field of a control byte, `c[6:0]`, for either kind (30_encoding.md R75). -/
def countField (c : Byte) : Count := c.setWidth 7

/-- The length in bytes of the segment that begins with control byte `c` (30_encoding.md R76). -/
def segmentLength (c : Byte) : Nat := if isLiteral c then 1 + (countField c).toNat else 2

/-- Why a list of bytes is no instruction: only that it ends too early. No byte value is illegal (30_encoding.md R85). -/
inductive DecodeError where
  /-- There is no byte at all. -/
  | noByte
  /-- A literal run's control byte is followed by fewer bytes than its count. -/
  | literalCutShort
  /-- A repeat run's control byte is the last byte. -/
  | fillMissing
deriving DecidableEq, Repr

/-- What the decoder answers: an instruction and the bytes after it, or a named reason. -/
inductive Decoded where
  | ok (i : Instr) (rest : List Byte)
  | bad (e : DecodeError)
deriving DecidableEq, Repr

/-- Decode one item at a position: a header at offset 0 whatever its bits, else a segment chosen by bit 7 of its
control byte (30_encoding.md R81). -/
def decode : Position → List Byte → Decoded
  | _, [] => .bad .noByte
  | .header, l :: rest => .ok (.hdr l) rest
  | .segment, c :: rest =>
    if isLiteral c then
      if (countField c).toNat ≤ rest.length then
        .ok (.lit (countField c) (rest.take (countField c).toNat)) (rest.drop (countField c).toNat)
      else .bad .literalCutShort
    else
      match rest with
      | [] => .bad .fillMissing
      | v :: rest' => .ok (.rep (countField c) v) rest'

/-- The control byte of a literal run: `0x80 | n` (30_encoding.md R73). -/
def litControl (n : Count) : Byte := 0x80#8 ||| n.setWidth 8

/-- The control byte of a repeat run: the count itself, bit 7 clear (30_encoding.md R74). -/
def repControl (n : Count) : Byte := n.setWidth 8

/-- The bytes of an instruction, first byte first (30_encoding.md R71, R73, R74). -/
def encode : Instr → List Byte
  | .hdr l => [l]
  | .lit n bytes => litControl n :: bytes
  | .rep n v => [repControl n, v]

/-- Parse a whole run of bytes as segments laid end to end with nothing left over (30_encoding.md R70, R76).
`fuel` bounds the number of segments; the number of bytes is always enough. -/
def parseSegments : Nat → List Byte → Option (List Instr)
  | _, [] => some []
  | 0, _ :: _ => none
  | fuel + 1, bytes =>
    match decode .segment bytes with
    | .bad _ => none
    | .ok i rest => (parseSegments fuel rest).map (i :: ·)

/-- The segment bytes of a list of segments (30_encoding.md R70). -/
def segmentBytes (segs : List Instr) : List Byte := segs.flatMap encode

/-- What the segments write, in order: `out` of 40_decoder_segments.md R96. -/
def outputOf (segs : List Instr) : List Byte := segs.flatMap Instr.expand

/-- The assembler of 30_encoding.md R82: a header byte `1 + (sum of the assembled lengths)`, then the segments.
It refuses a frame longer than 255 bytes. -/
def assemble (segs : List Instr) : Option (List Byte) :=
  let body := segmentBytes segs
  if body.length ≤ 254 then some (BitVec.ofNat 8 (1 + body.length) :: body) else none

/-- The assembler line `LIT b1, ..., bn` (30_encoding.md R82). -/
def litLine (bytes : List Byte) : Instr := .lit (BitVec.ofNat 7 bytes.length) bytes

/-- The pseudo-instruction `FILL m, v` (30_encoding.md R83). -/
def fillLines (m : Nat) (v : Byte) : List Instr :=
  List.replicate (m / 127) (.rep 127#7 v) ++ (if 0 < m % 127 then [.rep (BitVec.ofNat 7 (m % 127)) v] else [])

/-- The pseudo-instruction `BYTES b1, ..., bm`: literal lines of at most 127 bytes, full ones first (30_encoding.md R83). -/
def bytesLines (bytes : List Byte) : List Instr :=
  (List.range ((bytes.length + 126) / 127)).map fun k => litLine ((bytes.drop (127 * k)).take 127)

/-- The pseudo-instruction `NOP`: `REP 0, 0x00` (30_encoding.md R83). -/
def nopLine : Instr := .rep 0#7 0x00#8

/-- The bytes at `base + 1` to `base + l - 1`, the segment bytes of a frame of length `l` (30_encoding.md R70). -/
def storedSegments (read : Nat → Byte) (base : Nat) (l : Byte) : List Byte :=
  (List.range (l.toNat - 1)).map fun k => read (base + 1 + k)

/-- The segments fit the canvas: their counts sum to its size (W2 of 30_encoding.md R80), and none is the count-0
literal run where `ALLOW_LIT0` is false (W4). -/
def fitsCanvas (canvasBytes : Nat) (allowLit0 : Bool) (segs : List Instr) : Bool :=
  (outputOf segs).length == canvasBytes && (allowLit0 || segs.all fun i => !i.isLit0)

/-- A well-formed frame (30_encoding.md R80) at `base` of a store that `read` gives: its segments tile offsets 1 to
`L - 1` exactly (W1), fit the canvas (W2, W4), and every offset lies inside the store (W3). With `L = 0` the parse stops
past `L`. -/
def frameFits (read : Nat → Byte) (romSize canvasBytes : Nat) (allowLit0 : Bool) (base : Nat) : Bool :=
  let l := read base
  decide (1 ≤ l.toNat) && decide (base + l.toNat ≤ romSize) &&
    match parseSegments (l.toNat - 1) (storedSegments read base l) with
    | some segs => fitsCanvas canvasBytes allowLit0 segs
    | none => false

/-- The number of bytes of the longest instruction, a literal run of 127 (40_decoder_segments.md R94). -/
def longestInstr : Nat := 128

/-- The bytes of a table word, bits 7:0 first, then zeros up to the longest instruction. `count` of them. -/
def tableBytes : (count : Nat) → (w : Nat) → List Byte
  | 0, _ => []
  | k + 1, w => BitVec.ofNat 8 w :: tableBytes k (w / 256)

/-- The bits of `w` that the table gives the row: those below `nbits`. -/
def tableWord (nbits w : Nat) : Nat := w % 2 ^ nbits

/-- The position a table word stands at. The table's HDR row has 8 bits and no fixed bit, its LIT row 8 bits and bit 7
set, its REP row 16 bits and bit 7 clear: a word of at most one byte with bit 7 clear is read at offset 0, every other
word at a segment boundary (log entry 24). -/
def tablePosition (nbits w : Nat) : Position :=
  if nbits ≤ 8 ∧ isLiteral (BitVec.ofNat 8 (tableWord nbits w)) = false then .header else .segment

/-- The instruction the decoder reads from a word of spec/opcode_table.json. -/
def decodeTableWord (nbits w : Nat) : Option Instr :=
  match decode (tablePosition nbits w) (tableBytes longestInstr (tableWord nbits w)) with
  | .ok i _ => some i
  | .bad _ => none

end Sys2Proof
end

