-- ==== Sys2Proof/Config.lean ====
section
/-!
DEFINITION. The implementation parameters of 00_scope.md R8, and the free values.

A parameter the spec calls OPEN has no value here: at reset it is a field of the opaque constant `Config.installation`,
of which a proof can see one thing only, that its frames are well-formed (60_exceptions.md R147: no other machine is
instantiated). Because the step reads every parameter from the state (log entry 1), a statement over all states
quantifies over all its values. A free value is an opaque function: whatever it is, a statement about it holds.
-/

namespace Sys2Proof

/-- Which physical half of a split display this controller drives (10_state.md R38). -/
inductive Side where
  | left
  | right
deriving DecidableEq, Repr, Inhabited

/-- The controller's role, read by ROTATION only (10_state.md R39). -/
inductive Role where
  | primary
  | secondary
deriving DecidableEq, Repr, Inhabited

/-- The activity strategy `ACT_MODE`, chosen once at startup (10_state.md R40). -/
inductive ActMode where
  /-- `KEY`: only the host's ACTIVITY writes the Activity Timestamp. -/
  | key
  /-- `WPM`: RENDER also writes it, when the typing-speed sample increases. -/
  | wpm
deriving DecidableEq, Repr, Inhabited

/-- The three poses a Frame Set can have (00_scope.md R19). -/
inductive Pose where
  | tap
  | paws
  | idle
deriving DecidableEq, Repr, Inhabited

/-- One entry of the frame table `FT(side, pose, idx)` (41_selector.md R117). -/
structure FrameTableEntry where
  side : Side
  pose : Pose
  idx  : Nat
  base : Nat
deriving DecidableEq, Repr

/-- The base addresses, `AW` bits each, of the `2 * (IDLE_FRAMES + PAWS_FRAMES + TAP_FRAMES)` frames the Selector can
select (20_memory.md R52, 70_reset_and_hazards.md R163). -/
def frameBases (table : Side → Pose → Nat → Nat) (tapFrames idleFrames pawsFrames aw : Nat) : List Nat :=
  [Side.left, Side.right].flatMap fun side =>
    (List.range idleFrames).map (fun k => table side .idle k % 2 ^ aw) ++
      (List.range pawsFrames).map (fun k => table side .paws k % 2 ^ aw) ++
      (List.range tapFrames).map (fun k => table side .tap k % 2 ^ aw)

/-- Every parameter of 00_scope.md R8 that is data. The state carries one value of it, which no step changes
(70_reset_and_hazards.md R171). The widths `LW`, `IW` and `CW` are the types of `Word.lean`; `ROT` is
`Config.rotation`. -/
structure Params where
  /-- `D`, the tick duration in time-units. -/
  d : Nat
  /-- `TIMEOUT`, the display power-off timeout in time-units (OPEN). -/
  timeout : Nat
  /-- `TAP_FRAMES`, the size of the tap Frame Set. -/
  tapFrames : Nat
  /-- `IDLE_FRAMES`, the size of the idle Frame Set. -/
  idleFrames : Nat
  /-- `PAWS_FRAMES`, the size of the cooldown Frame Set. -/
  pawsFrames : Nat
  /-- `CANVAS_BYTES`, the capacity of one canvas (OPEN, above 0). -/
  canvasBytes : Nat
  /-- `AW`, the width of a Frame Store address (OPEN). -/
  aw : Nat
  /-- `ROM_SIZE`: Frame Store addresses are those below it (OPEN). -/
  romSize : Nat
  /-- The bytes of the Frame Store whose value is known, by address; the others are `Config.romByte`. -/
  rom : List Host.Cell
  /-- The entries of the frame table that are known; the others are `Config.frameBase`. -/
  ft : List FrameTableEntry
  /-- `TW`, the width of a timestamp; `none` is the spec's `inf`, unbounded naturals (OPEN). -/
  tw : Option Nat
  /-- `WW`, the width of a typing-speed sample. -/
  ww : Nat
  /-- `ACT_MODE` (OPEN). -/
  actMode : ActMode
  /-- `SIDE`, the answer of the host's `Side()`, constant (R38). -/
  side : Side
  /-- `ROLE`, the answer of the host's `Role()` (R39). -/
  role : Role
  /-- `RENDER_RET`, the boolean RENDER returns on every path (OPEN, 41_selector.md R118). -/
  renderRet : Bool
  /-- `ALLOW_LIT0`: whether well-formedness admits the control byte 0x80 (30_encoding.md R78). -/
  allowLit0 : Bool
deriving DecidableEq, Repr

/-- What a machine is instantiated with: a value for each parameter the spec leaves OPEN (92_eei_decisions.md D5 to D12)
and for the straps, such that all 16 frames of the source's set sizes are well-formed. The last two fields are the
refusal of 60_exceptions.md R147 and 93_implementation_defined.md U1, U18: with bad frames there is no such value. The
default values show that one exists, and are seen by no proof. -/
structure Installation where
  /-- `TIMEOUT` (D5). -/
  timeout : Nat := 0
  /-- `CANVAS_BYTES` (D6). -/
  canvasBytes : Nat := 1
  /-- `AW` (D7). -/
  aw : Nat := 8
  /-- `ROM_SIZE` (D8). -/
  romSize : Nat := 3
  /-- `ROM`: the compiled-in byte at a Frame Store address (D8); one value per address for ever (20_memory.md R51). -/
  romByte : Nat → Byte := fun a => if a = 0 then 3 else if a = 1 then 1 else 0
  /-- `FT`: the base address of a frame (D8). -/
  frameBase : Side → Pose → Nat → Nat := fun _ _ _ => 0
  /-- `TW` (D9). -/
  tw : Option Nat := none
  /-- `ACT_MODE` (D11). -/
  actMode : ActMode := .key
  /-- `SIDE`: a strap at its configured value (R38, R161). -/
  side : Side := .left
  /-- `ROLE`: a strap at its configured value (R39, R161). -/
  role : Role := .primary
  /-- `RENDER_RET` (D12). -/
  renderRet : Bool := true
  /-- `CANVAS_BYTES > 0` (00_scope.md R8). -/
  canvas_pos : 0 < canvasBytes := by decide
  /-- Every frame the Selector can select is well-formed (30_encoding.md R80). -/
  frames_ok : (frameBases frameBase 2 5 1 aw).all (frameFits romByte romSize canvasBytes true) = true := by decide
deriving Inhabited

namespace Config

/-- The instantiation of the machine: any one that R147 admits. OPEN. -/
opaque installation : Installation

/-- `ROM`: the compiled-in byte at a Frame Store address. -/
def romByte : Nat → Byte := installation.romByte

/-- `FT`: the base address of a frame. -/
def frameBase : Side → Pose → Nat → Nat := installation.frameBase

/-- `ROT`: the display orientation for a side and a role, an uninterpreted function into an uninterpreted set, whose
members are written as numbers (41_selector.md R120; D13). -/
opaque rotation : Side → Role → Nat

/-- FREE VALUE: the byte a read at a Frame Store address at or above `ROM_SIZE` returns (60_exceptions.md R143: any
value, a fresh draw per read). The first argument is the state's draw counter, the second the address (log entry 4). -/
opaque freeByte : Nat → Nat → Byte

/-- FREE VALUE: the elapsed time the host's function gives for a `now` below the Activity Timestamp when timestamps
are unbounded, a case the host's monotonic clock excludes and the spec gives no value for (log entry 15). -/
opaque elapsedBackwards : Nat → Nat → Nat

/-- The tick duration's default, 200 time-units (41_selector.md R113). -/
def defaultTick : Nat := 200

end Config

/-- The parameters at reset: the values the spec gives, and the installed ones for what it leaves OPEN. Nothing of the
Frame Store or of the frame table is listed (91_not_in_source.md N1). -/
def Params.configured : Params where
  d := Config.defaultTick
  timeout := Config.installation.timeout
  tapFrames := 2
  idleFrames := 5
  pawsFrames := 1
  canvasBytes := Config.installation.canvasBytes
  aw := Config.installation.aw
  romSize := Config.installation.romSize
  rom := []
  ft := []
  tw := Config.installation.tw
  ww := 8
  actMode := Config.installation.actMode
  side := Config.installation.side
  role := Config.installation.role
  renderRet := Config.installation.renderRet
  allowLit0 := true

end Sys2Proof
end

