-- ==== Sys2Proof/Machine/State.lean ====
section
/-!
DEFINITION. The state of the block (10_state.md), the ways a step can stop, and the state after reset.
-/

namespace Sys2Proof.Machine

/-- A byte memory by address: strictly rising addresses, an unlisted address has no value (`Memory.wf` in Ops.lean). -/
abbrev Memory := List Host.Cell

/-- What the Decoder is doing. The spec implies it: a decode is in progress or not (10_state.md R45), and if it is, the
next byte is the header (40_decoder_segments.md R91) or the Decoder stands at a segment boundary (R92). -/
inductive Phase where
  /-- No decode is in progress: the host may invoke an entry point. -/
  | idle
  /-- A decode has been started; HDR is next. -/
  | header
  /-- At a segment boundary: the loop test is next. -/
  | segment
deriving DecidableEq, Repr

/-- An entry of the event trace (00_scope.md R15). -/
inductive Event where
  /-- `FR(off, b)`: a read of the frame at offset `off` returned `b`. -/
  | fr (off : ReadCursor) (b : Byte)
  /-- `SW(v, p)`: byte `v` was written at canvas position `p`. -/
  | sw (v : Byte) (p : WriteCursor)
deriving DecidableEq, Repr

/-- A host operation with the answers its primitives give while it runs (70_reset_and_hazards.md R172). -/
inductive HostOp where
  /-- RENDER; `now` is the host's time and `wpm` its typing-speed sample, asked for in `WPM` mode only. -/
  | render (now wpm : Nat)
  /-- ACTIVITY at the host's time `now`. -/
  | activity (now : Nat)
  /-- ROTATION. -/
  | rotation
deriving DecidableEq, Repr

/-- What the block gives the host: a primitive it invokes, or the value an entry point returns. -/
inductive HostCall where
  /-- `DisplayOff()` was invoked (41_selector.md R112). -/
  | displayOff
  /-- RENDER returned this boolean (41_selector.md R118). -/
  | renderReturned (b : Bool)
  /-- ROTATION returned this orientation (41_selector.md R120). -/
  | rotationReturned (o : Nat)
deriving DecidableEq, Repr

/-- The classes of contract violation (60_exceptions.md R143 to R147). A decode goes on after each but `overrun`, which is
a fault. -/
inductive Violation where
  /-- `V_OVERREAD`: a read at offset `>= L`, the header's own read apart (R143). -/
  | overread
  /-- `V_OVERRUN`: a `SinkWrite` at a position `>= CANVAS_BYTES` (R144). Reported by the fault of that name alone. -/
  | overrun
  /-- `V_UNDERFILL`: the decode ended with `cursor < CANVAS_BYTES` (R145). -/
  | underfill
  /-- `V_LIT0`: a control byte 0x80 while `ALLOW_LIT0` is false (R146). -/
  | lit0
  /-- `V_BADFRAME`: the frame does not lie wholly inside the Frame Store (R147). No machine with such a frame is
  instantiated (`instantiate`, `Config.installation`); this is the record of a decode in a state that comes from none. -/
  | badFrame
deriving DecidableEq, Repr

/-- Why the machine stops with a fault. -/
inductive Fault where
  /-- `V_OVERRUN`: a `SinkWrite` at a position `>= CANVAS_BYTES`, raised by LIT and REP. The trace it carries is the
  event trace with that write in it, as 60_exceptions.md R144 asks, and `reported` is the violation to report, the first
  of the decode in event order (R149): an earlier one if there was one, else `overrun`. Safe: the block itself goes on,
  and nothing is claimed of what the display driver does. -/
  | overrun (trace : List Event) (reported : Violation)
deriving DecidableEq, Repr

/-- Why a step has no meaning. -/
inductive Refusal where
  /-- An instruction that has no meaning in this model; raised by `exec` alone. Safe. No arm raises it. -/
  | notModelled (mnemonic : String)
  /-- A host operation invoked while a RENDER is in progress; raised by `invoke` (70_reset_and_hazards.md R165). Safe.
  No step raises it: `step` takes a host operation only when the Decoder is idle. -/
  | reentrant
  /-- `V_BADFRAME` and every other ill-formed frame: the parameters give a frame that is not well-formed; raised by
  `instantiate` (60_exceptions.md R147). Safe. No step raises it: the parameters of an instantiated machine never
  change. -/
  | badFrame
  /-- The fetched bytes are no instruction; raised by `runFetched`. Safe. No step raises it: the fetch takes as many
  bytes as the control byte says. -/
  | undecodable (e : DecodeError)
deriving DecidableEq, Repr

/-- The state: 10_state.md R20's registers and the canvas, the parameters (constant, log entry 1), where the Decoder
stands, the host's inputs (log entry 2), and the model's own records. -/
structure State where
  /-- The parameters of 00_scope.md R8 and the straps of 10_state.md R38 to R41; no step changes them (R171). -/
  params : Params
  /-- `base`: the Frame Store address of byte 0 of the frame, `AW` bits (R26). -/
  base : Nat
  /-- `L`: the declared length (R22). -/
  L : Byte
  /-- `i`: the read cursor, the program counter (R24, R27). -/
  i : ReadCursor
  /-- `cursor`: the write cursor (R25, R28). -/
  cursor : WriteCursor
  /-- `c`: the control byte (R23). -/
  c : Byte
  /-- `n`: the count (R23). -/
  n : Count
  /-- `v`: the byte last read for the canvas (R23). -/
  v : Byte
  /-- `idle_idx`: the idle sub-frame most recently decoded (R31). -/
  idleIdx : SubFrame
  /-- `tap_idx`: the tap sub-frame most recently decoded (R32). -/
  tapIdx : SubFrame
  /-- `last_tick`: written by every tick, read by no rule (R33). `TW` bits. -/
  lastTick : Nat
  /-- `last_wpm`: the last typing-speed sample (R34). `WW` bits. -/
  lastWpm : Nat
  /-- `activity_ts`: the Activity Timestamp (R36). `TW` bits. -/
  activityTs : Nat
  /-- The canvas; a position nothing has written has no value (R46, 20_memory.md R56). -/
  canvas : Memory
  /-- What the Decoder is doing (R45). -/
  phase : Phase
  /-- Host operations to come, the next one first (70_reset_and_hazards.md R172). -/
  hostOps : List HostOp
  /-- The model's own: the event trace, oldest first (00_scope.md R15). -/
  trace : List Event
  /-- The model's own: what the block gave the host, oldest first. -/
  hostCalls : List HostCall
  /-- The model's own: the first contract violation of the current or latest decode (60_exceptions.md R149). -/
  violation : Option Violation
  /-- The model's own: how many reads outside the Frame Store have drawn a free byte (60_exceptions.md R143). -/
  draws : Nat
deriving DecidableEq, Repr

/-- What a step or a meaning answers. -/
abbrev Result := Host.Outcome State Fault Refusal

/-- Process start (10_state.md R43 to R46, 70_reset_and_hazards.md R161): the Selector registers and the Activity
Timestamp are 0, the Decoder is idle, no canvas position has a value, the parameters are as configured. The Decoder's
working registers have no value in the spec; they are 0 here (log entry 12). -/
def State.reset : State where
  params := Params.configured
  base := 0
  L := 0
  i := 0
  cursor := 0
  c := 0
  n := 0
  v := 0
  idleIdx := 0
  tapIdx := 0
  lastTick := 0
  lastWpm := 0
  activityTs := 0
  canvas := []
  phase := .idle
  hostOps := []
  trace := []
  hostCalls := []
  violation := none
  draws := 0

end Sys2Proof.Machine
end

