-- ==== Sys2Proof/Machine/Operands.lean ====
section
/-!
DEFINITION. Where operands come from: Frame Store addresses and the bytes read there. The block has no operand forms
beyond these: a segment names no register (10_state.md R21), a count is not scaled (30_encoding.md R75) and the bytes
of a frame follow one another from `base` (20_memory.md R51).
-/

namespace Sys2Proof.Machine

/-- Read one byte of a memory; `none` where the address has no value. -/
def Memory.read : Memory → Nat → Option Byte
  | [], _ => none
  | (a, b) :: rest, p => if a = p then some b else Memory.read rest p

/-- Write one byte of a memory, keeping the addresses in strictly rising order. -/
def Memory.write : Memory → Nat → Byte → Memory
  | [], p, v => [(p, v)]
  | (a, b) :: rest, p, v =>
    if a < p then (a, b) :: Memory.write rest p v
    else if a = p then (p, v) :: rest
    else (p, v) :: (a, b) :: rest

/-- The canonical form: addresses strictly rising. An unlisted address has no value, so no entry equals what an
unlisted address reads as. -/
def Memory.wf : Memory → Bool
  | [] => true
  | [_] => true
  | (a, _) :: (a', b') :: rest => decide (a < a') && Memory.wf ((a', b') :: rest)

/-- Every address of a memory is below `limit`. -/
def Memory.below (limit : Nat) (m : Memory) : Bool := m.all fun cell => decide (cell.1 < limit)

/-- Store consecutive bytes from an address up. -/
def Memory.writeAll : Memory → Nat → List Byte → Memory
  | m, _, [] => m
  | m, a, b :: rest => Memory.writeAll (Memory.write m a b) (a + 1) rest

/-- The compiled-in byte at a Frame Store address, a constant of the machine (20_memory.md R51, R53). -/
def storeByte (p : Params) (a : Nat) : Byte := (Memory.read p.rom a).getD (Config.romByte a)

/-- The Frame Store address of an offset of the frame, `base + i` with `i` zero-extended (20_memory.md R51). It is
used as formed (R67). -/
def frameAddress (s : State) (off : Nat) : Nat := s.base + off

/-- Whether an offset of the frame lies outside the Frame Store (20_memory.md R65). -/
def outsideStore (s : State) (off : Nat) : Bool := decide (s.params.romSize ≤ frameAddress s off)

/-- The byte `FrameRead` returns at an offset of the frame: the stored byte inside the Frame Store, and outside it a
free byte, a fresh draw (20_memory.md R51, R65; 60_exceptions.md R143). -/
def frameByte (s : State) (off : Nat) : Byte :=
  if outsideStore s off then Config.freeByte s.draws (frameAddress s off)
  else storeByte s.params (frameAddress s off)

/-- `count` bytes of the frame from an offset up. -/
def frameBytes (s : State) (off count : Nat) : List Byte := (List.range count).map fun k => frameByte s (off + k)

/-- The bytes of the item that the Decoder is to execute at a position: the header, or the whole segment at the read
cursor, as long as its control byte says (30_encoding.md R76). -/
def fetchBytes (s : State) : Position → List Byte
  | .header => frameBytes s 0 1
  | .segment => frameBytes s s.i.toNat (segmentLength (frameByte s s.i.toNat))

/-- The base address of a frame from the frame table: the known entry, or the table's uninterpreted one
(41_selector.md R117; 20_memory.md R52). -/
def frameTable (p : Params) (side : Side) (pose : Pose) (idx : Nat) : Nat :=
  match p.ft.find? fun e => decide (e.side = side ∧ e.pose = pose ∧ e.idx = idx) with
  | some e => e.base
  | none => Config.frameBase side pose idx

/-- A host timestamp as the block holds it: its low `TW` bits, or all of it when `TW` is unbounded (00_scope.md R8). -/
def timestamp (tw : Option Nat) (t : Nat) : Nat :=
  match tw with
  | none => t
  | some w => t % 2 ^ w

/-- A typing-speed sample as the block holds it: its low `WW` bits (00_scope.md R8). -/
def wpmSample (p : Params) (w : Nat) : Nat := w % 2 ^ p.ww

/-- `elapsed`: `(now - activity_ts) mod 2^TW`, the plain difference when `TW` is unbounded (41_selector.md R112). When
`TW` is unbounded and `now` is below the timestamp, which the host's monotonic clock excludes (10_state.md R37), the
value is free (log entry 15). -/
def elapsedSince (tw : Option Nat) (now ts : Nat) : Nat :=
  match tw with
  | some w => (now + (2 ^ w - ts % 2 ^ w)) % 2 ^ w
  | none => if ts ≤ now then now - ts else Config.elapsedBackwards now ts

end Sys2Proof.Machine
end

