-- ==== Sys2Proof/Machine/Flags.lean ====
section
/-!
DEFINITION. The block's tests. It has no flag, condition code or predicate register (10_state.md R29): each test is
evaluated where it is used and stored nowhere. (The test of bit 7 of the control byte is `isLiteral`, in Decode.lean.)
-/

namespace Sys2Proof.Machine

/-- The loop test `i < L`, unsigned, `L` zero-extended to the width of `i` (10_state.md R24, 40_decoder_segments.md R92). -/
def loopContinues (s : State) : Bool := s.i.ult (s.L.setWidth 9)

/-- A read at offset `i` is at or past the declared length (60_exceptions.md R143). -/
def pastEnd (s : State) : Bool := !loopContinues s

/-- The write cursor stands beyond the canvas (60_exceptions.md R144). -/
def offCanvas (s : State) : Bool := decide (s.params.canvasBytes ≤ s.cursor.toNat)

/-- The decode leaves canvas positions unwritten (60_exceptions.md R145). -/
def underfilled (s : State) : Bool := decide (s.cursor.toNat < s.params.canvasBytes)

/-- A frame at `base` of length `l` does not lie wholly inside the Frame Store; its header byte is part of it
whatever `l` is (60_exceptions.md R147, 30_encoding.md R70). -/
def frameOutsideStore (p : Params) (base : Nat) (l : Byte) : Bool := decide (p.romSize ≤ base + (max l.toNat 1 - 1))

/-- A sample counts as activity: strictly above the previous one (41_selector.md R111). -/
def wpmIncreased (s : State) (w : Nat) : Bool := decide (s.lastWpm < w)

/-- The animation states; none is stored (10_state.md R35). -/
inductive AnimState where
  | tapping
  | cooldown
  | idling
  | asleep
deriving DecidableEq, Repr

/-- The animation state, a function of the elapsed time and the parameters only: the power decision first, "exceeds"
being strict (41_selector.md R112), then the thresholds `2*D` and `8*D`, each interval closed below and open above
(R113). The products are formed on naturals (10_state.md R41). -/
def animState (p : Params) (elapsed : Nat) : AnimState :=
  if p.timeout < elapsed then .asleep
  else if elapsed < 2 * p.d then .tapping
  else if elapsed < 8 * p.d then .cooldown
  else .idling

end Sys2Proof.Machine
end

