-- ==== Sys2Proof/Machine/Ops.lean ====
section
/-!
DEFINITION. The named operations the meanings share: `FrameRead` and `SinkWrite` with their events, the record of
contract violations, the copy loops of LIT and REP, the start and the end of a decode. The block takes no exception
and returns from none (60_exceptions.md R140, R150, R151); in the place of exception entry stands `note`, the record of
a violation, and the fault of `sinkWrite`.
-/

namespace Sys2Proof.Machine

/-- Go on with the next state, or stop where the first part stopped. -/
def andThen (r : Result) (k : State → Result) : Result :=
  match r with
  | .next s => k s
  | .fault f => .fault f
  | .refused q => .refused q

/-- The next state of a result, if it is one. -/
def nextState : Result → Option State
  | .next s => some s
  | .fault _ => none
  | .refused _ => none

/-- What canvas position `p` holds: `none` where nothing has been written since reset (10_state.md R46). -/
def canvasRead (s : State) (p : Nat) : Option Byte := Memory.read s.canvas p

/-- Record a contract violation if `happens`; within one decode the first in event order is kept (60_exceptions.md R149). -/
def note (happens : Bool) (w : Violation) (s : State) : State :=
  if happens && s.violation.isNone then { s with violation := some w } else s

/-- `FrameRead(base + i)` returning `b`, then `i <- i + 1`: the event, the violation if the offset is at or past `L`
(60_exceptions.md R143), and the draw if the address is outside the Frame Store. -/
def readNext (b : Byte) (s : State) : State :=
  let s' := note (pastEnd s) .overread s
  { s' with
    trace := s.trace ++ [.fr s.i b]
    i := s.i + 1
    draws := if outsideStore s s.i.toNat then s.draws + 1 else s.draws }

/-- A `SinkWrite(v, cursor)` that lands on the canvas, then `cursor <- cursor + 1`: the event and the byte
(20_memory.md R54, R56). -/
def putByte (v : Byte) (s : State) : State :=
  { s with
    trace := s.trace ++ [.sw v s.cursor]
    canvas := Memory.write s.canvas s.cursor.toNat v
    cursor := s.cursor + 1 }

/-- The violation to report when `w` happens now: the first of the decode in event order (60_exceptions.md R149). -/
def firstViolation (s : State) (w : Violation) : Violation := s.violation.getD w

/-- `SinkWrite(v, cursor)`, then `cursor <- cursor + 1`. The write is issued whatever the position; at a position
beyond the canvas it is `V_OVERRUN` and the machine faults with the write in the trace (60_exceptions.md R144),
reporting the decode's first violation (R149). -/
def sinkWrite (v : Byte) (s : State) : Result :=
  if offCanvas s then .fault (.overrun (s.trace ++ [.sw v s.cursor]) (firstViolation s .overrun)) else .next (putByte v s)

/-- FETCH: `c` is loaded with the control byte and `i` moves past it (40_decoder_segments.md R93). -/
def fetchControl (c : Byte) (s : State) : State := { readNext c s with c := c }

/-- `v <- FrameRead(base + i)` and `i <- i + 1` (40_decoder_segments.md R94, R95). -/
def readValue (b : Byte) (s : State) : State := { readNext b s with v := b }

/-- `n <- ` the count (10_state.md R23). -/
def loadCount (n : Count) (s : State) : State := { s with n := n }

/-- The loop of LIT: read, advance `i`, write, advance `cursor`, once per literal byte (40_decoder_segments.md R94). -/
def copyLiterals : List Byte → State → Result
  | [], s => .next s
  | b :: rest, s => andThen (sinkWrite b (readValue b s)) (copyLiterals rest)

/-- The loop of REP: write the fill value, advance `cursor`, `count` times (40_decoder_segments.md R95). -/
def repeatFill : (count : Nat) → Byte → State → Result
  | 0, _, s => .next s
  | k + 1, v, s => andThen (sinkWrite v s) (repeatFill k v)

/-- DECODE(b): `base <- b`, `AW` bits, HDR next (40_decoder_segments.md R90). The violation record starts empty. -/
def startDecode (b : Nat) (s : State) : State :=
  { s with base := b % 2 ^ s.params.aw, phase := .header, violation := none }

/-- RENDER returns its boolean to the host and the block is idle (41_selector.md R118). -/
def returnFromRender (s : State) : State :=
  { s with phase := .idle, hostCalls := s.hostCalls ++ [.renderReturned s.params.renderRet] }

/-- The end of a decode, found by the loop test at a segment boundary: no register is written back
(40_decoder_segments.md R92), a canvas not filled is recorded and keeps its stale bytes (60_exceptions.md R145), and
the RENDER that started the decode returns. -/
def finishDecode (s : State) : State := returnFromRender (note (underfilled s) .underfill s)

end Sys2Proof.Machine
end

