-- ==== Sys2Proof/Machine/Decoder.lean ====
section
/-!
DEFINITION. The meanings of the three items of an Encoded Frame (40_decoder_segments.md sections 2, 4 and 5).
-/

namespace Sys2Proof.Machine

/-- HDR (40_decoder_segments.md R91): the header read is always proper (90_conflicts.md C10); `L` is loaded, `i` is 1,
`cursor` is 0, and the Decoder stands at the first segment boundary. Its treatment
of a bad frame is the instantiation's (`instantiate`, 60_exceptions.md R147); in a state that comes from none, such a
frame is recorded and "at run time the consequences are U2 to U4" (93_implementation_defined.md U1). -/
def execHdr (l : Byte) (s : State) : Result :=
  let s' := note (frameOutsideStore s.params s.base l) .badFrame s
  .next { s' with
    L := l
    i := 1
    cursor := 0
    phase := .segment
    trace := s.trace ++ [.fr 0 l]
    draws := if outsideStore s 0 then s.draws + 1 else s.draws }

/-- LIT (40_decoder_segments.md R93, R94): the control byte is fetched, `n` is its count field, and the literal bytes
are read and written one by one. Control byte 0x80 is a one-byte segment with no output (30_encoding.md R78), recorded
where `ALLOW_LIT0` is false (60_exceptions.md R146). -/
def execLit (n : Count) (bytes : List Byte) (s : State) : Result :=
  let fetched := note (n == 0 && !s.params.allowLit0) .lit0 (fetchControl (litControl n) s)
  copyLiterals bytes (loadCount n fetched)

/-- REP (40_decoder_segments.md R93, R95): the control byte is fetched, `n` is the control byte, the fill value is read
once, whatever the count, and written `n` times. -/
def execRep (n : Count) (v : Byte) (s : State) : Result :=
  repeatFill n.toNat v (readValue v (loadCount n (fetchControl (repControl n) s)))

end Sys2Proof.Machine
end

