-- ==== Sys2Proof/Machine/Dispatch.lean ====
section
/-!
DEFINITION. One arm per constructor of `Instr`.
-/

namespace Sys2Proof.Machine

def exec (i : Instr) (s : State) : Host.Outcome State Fault Refusal :=
  match i with
  | .hdr l => Sys2Proof.Machine.execHdr l s
  | .lit n bytes => Sys2Proof.Machine.execLit n bytes s
  | .rep n v => Sys2Proof.Machine.execRep n v s

end Sys2Proof.Machine
end

