-- ==== Sys2Proof/Machine/Selector.lean ====
section
/-!
DEFINITION. The Selector (41_selector.md sections 1 to 6). Its operations have no bit encoding: RENDER is a host
operation, and one of the others is chosen by the elapsed time.
-/

namespace Sys2Proof.Machine

/-- DECODE(FT(Side(), pose, idx)): the frame lookup and the Decoder's only call site (41_selector.md R117). -/
def decodeFrame (pose : Pose) (idx : Nat) (s : State) : State :=
  startDecode (frameTable s.params s.params.side pose idx) s

/-- WPM_SAMPLE(now): a strictly larger sample than the previous tick's is activity; the sample is stored in any case.
It runs in `WPM` mode only (41_selector.md R111). -/
def takeWpmSample (now w : Nat) (s : State) : State :=
  { s with
    activityTs := if wpmIncreased s (wpmSample s.params w) then now else s.activityTs
    lastWpm := wpmSample s.params w }

/-- The activity stage of RENDER: the sample is taken in `WPM` mode and not asked for in `KEY` mode (41_selector.md R110). -/
def activityStage (now w : Nat) (s : State) : State :=
  match s.params.actMode with
  | .key => s
  | .wpm => takeWpmSample now w s

/-- POWEROFF: `DisplayOff()` is invoked, no Selector register is written, no frame is decoded, and RENDER returns
(41_selector.md R112). -/
def powerOff (s : State) : State := returnFromRender { s with hostCalls := s.hostCalls ++ [.displayOff] }

/-- The next tap sub-frame index: one more, modulo the tap-set size (41_selector.md R114). -/
def nextTapIdx (s : State) : SubFrame := BitVec.ofNat 8 ((s.tapIdx.toNat + 1) % s.params.tapFrames)

/-- The next idle sub-frame index: one more, from the last index back to 0 (41_selector.md R116). -/
def nextIdleIdx (s : State) : SubFrame :=
  if s.idleIdx.toNat + 1 = s.params.idleFrames then 0 else s.idleIdx + 1

/-- TICK.TAP: advance the tap index, then decode the tap frame at the new index (41_selector.md R114). -/
def tickTap (s : State) : State := decodeFrame .tap (nextTapIdx s).toNat { s with tapIdx := nextTapIdx s }

/-- TICK.COOLDOWN: decode the single paws frame; no index is written (41_selector.md R115). -/
def tickCooldown (s : State) : State := decodeFrame .paws 0 s

/-- TICK.IDLE: advance the idle index, then decode the idle frame at the new index (41_selector.md R116). -/
def tickIdle (s : State) : State := decodeFrame .idle (nextIdleIdx s).toNat { s with idleIdx := nextIdleIdx s }

/-- TICK(now, elapsed): `last_tick <- now`, which no rule reads (10_state.md R33). -/
def recordTick (now : Nat) (s : State) : State := { s with lastTick := now }

/-- The elapsed time since the last activity, as RENDER computes it at `now` (41_selector.md R112). -/
def elapsedAt (now : Nat) (s : State) : Nat := elapsedSince s.params.tw now s.activityTs

/-- The power decision and, unless the display is powered off, the tick: one of the four operations, by the animation
state (41_selector.md R110, R112, R113). -/
def selectFrame (now : Nat) (s : State) : State :=
  match animState s.params (elapsedAt now s) with
  | .asleep => powerOff s
  | .tapping => tickTap (recordTick now s)
  | .cooldown => tickCooldown (recordTick now s)
  | .idling => tickIdle (recordTick now s)

/-- RENDER up to the start of its decode: `now <- Now()`, the activity stage, the elapsed time, then the power decision
or the tick (41_selector.md R110). The decode runs in the steps that follow, and `finishDecode` returns. -/
def render (time w : Nat) (s : State) : State :=
  let now := timestamp s.params.tw time
  selectFrame now (activityStage now w s)

end Sys2Proof.Machine
end

