-- ==== Sys2Proof/Machine/HostOps.lean ====
section
/-!
DEFINITION. The host's operations (41_selector.md sections 1 and 7).
-/

namespace Sys2Proof.Machine

/-- ACTIVITY: `activity_ts <- Now()`, in either activity mode, and no other register (41_selector.md R119). -/
def activity (time : Nat) (s : State) : State := { s with activityTs := timestamp s.params.tw time }

/-- ROTATION: return `ROT(Side(), Role())`; no register of the block is read or written (41_selector.md R120). -/
def rotation (s : State) : State :=
  { s with hostCalls := s.hostCalls ++ [.rotationReturned (Config.rotation s.params.side s.params.role)] }

/-- Invoke a host operation. While a RENDER is in progress it has no step (70_reset_and_hazards.md R165, R166). -/
def invoke (op : HostOp) (s : State) : Result :=
  match s.phase with
  | .header => .refused .reentrant
  | .segment => .refused .reentrant
  | .idle =>
    match op with
    | .render time w => .next (render time w s)
    | .activity time => .next (activity time s)
    | .rotation => .next (rotation s)

/-- The host's pending operations after one has been taken. -/
def setHostOps (ops : List HostOp) (s : State) : State := { s with hostOps := ops }

/-- The step of an idle block: the next host operation, or nothing at all where the host has none
(70_reset_and_hazards.md R161, R172). -/
def hostStep (s : State) : Result :=
  match s.hostOps with
  | [] => .next s
  | op :: rest => invoke op (setHostOps rest s)

end Sys2Proof.Machine
end

