-- ==== Sys2Proof/Machine/Fetch.lean ====
section
/-!
DEFINITION. Fetching and running one item of a frame, and storing an instruction where it is fetched.
-/

namespace Sys2Proof.Machine

/-- Decode the item at a position of the frame and execute it. -/
def runFetched (pos : Position) (s : State) : Result :=
  match decode pos (fetchBytes s pos) with
  | .ok i _ => exec i s
  | .bad e => .refused (.undecodable e)

/-- The step of the Decoder at a segment boundary: one segment while `i < L`, else the end of the decode
(40_decoder_segments.md R92, R103). -/
def segmentStep (s : State) : Result := if loopContinues s then runFetched .segment s else .next (finishDecode s)

/-- The parameters with bytes stored in the Frame Store from an address up: a Frame Store that reaches past every offset
a decode can read (20_memory.md R65), and a canvas as large as one frame can fill (30_encoding.md R84). -/
def loadBytes (base addr : Nat) (bytes : List Byte) (p : Params) : Params :=
  { p with
    rom := Memory.writeAll p.rom addr bytes
    romSize := base + 512
    canvasBytes := 16129 }

/-- Put the state where the next step runs the item at `pos`, its bytes given: a decode in progress at the same `base`,
with the header next, or at the first segment boundary of a frame of the largest length. -/
def placeInstr (pos : Position) (bytes : List Byte) (s : State) : State :=
  match pos with
  | .header => { s with params := loadBytes s.base s.base bytes s.params, phase := .header }
  | .segment =>
    { s with params := loadBytes s.base (s.base + 1) bytes s.params, phase := .segment, i := 1, L := 255 }

end Sys2Proof.Machine
end

