-- ==== Sys2Proof/Machine/Step.lean ====
section
/-!
DEFINITION. The step: the host's operation when the block is idle, the header or one segment while a decode is in
progress (00_scope.md R10, 40_decoder_segments.md R103).
-/

namespace Sys2Proof.Machine

/-- One step of the machine. -/
def step (s : State) : Host.Outcome State Fault Refusal :=
  match s.phase with
  | .idle => hostStep s
  | .header => runFetched .header s
  | .segment => segmentStep s

/-- `s` with the instruction of a table word stored where `step` fetches its next instruction (log entries 24, 25). -/
def State.withFetchWord (s : State) (nbits w : Nat) : State :=
  placeInstr (tablePosition nbits w) (tableBytes longestInstr (tableWord nbits w)) s

end Sys2Proof.Machine
end

