-- ==== Sys2Proof/Machine/Frames.lean ====
section
/-!
DEFINITION. The well-formedness of the frames of a machine, and its instantiation, which refuses a machine with bad
frames (60_exceptions.md R147, 93_implementation_defined.md U1, U18).
-/

namespace Sys2Proof.Machine

/-- A well-formed frame at a Frame Store address (30_encoding.md R80). -/
def wellFormedFrame (p : Params) (base : Nat) : Bool :=
  frameFits (storeByte p) p.romSize p.canvasBytes p.allowLit0 base

/-- All frames the Selector can select are well-formed: what the platform owes before the first RENDER
(70_reset_and_hazards.md R163, R168). -/
def allFramesOk (p : Params) : Bool :=
  (frameBases (frameTable p) p.tapFrames p.idleFrames p.pawsFrames p.aw).all (wellFormedFrame p)

/-- Process start with given parameters: the model is instantiated only where all frames are well-formed, and refuses
the rest (60_exceptions.md R147). `State.reset` is the machine instantiated with `Config.installation`. -/
def instantiate (p : Params) : Result :=
  if allFramesOk p then .next { State.reset with params := p } else .refused .badFrame

end Sys2Proof.Machine
end

