-- ==== Sys2Proof/Safety.lean ====
section
/-!
DEFINITION. What the claims are stated in: runs of several steps, the invariant of the machine, the condition of an
instantiated machine, the host's duty of monotonic time, and the event lists a segment appends.
-/

namespace Sys2Proof.Machine

/-- `k` steps, stopping at the first fault or refusal. -/
def runSteps : Nat → State → Result
  | 0, s => .next s
  | k + 1, s => andThen (step s) (runSteps k)

/-! ### The invariant -/

/-- Parameters the registers can serve: set sizes an 8-bit index can hold (10_state.md R31, R32), a canvas (00_scope.md
R8), a Frame Store listing in canonical form. -/
structure ParamsOk (p : Params) : Prop where
  tapFrames_pos : 0 < p.tapFrames
  tapFrames_le : p.tapFrames ≤ 256
  idleFrames_pos : 0 < p.idleFrames
  idleFrames_le : p.idleFrames ≤ 256
  canvasBytes_pos : 0 < p.canvasBytes
  rom_wf : Memory.wf p.rom = true
  rom_below : Memory.below p.romSize p.rom = true

/-- The bounds of 10_state.md R24 and R25 at a segment boundary: `i <= 382`, `cursor <= 16129`; and no write has gone
beyond the canvas. The middle clause is what makes the bound on `cursor` inductive: a segment of `b` bytes writes at
most `127 * (b / 2)`. -/
structure CursorsInRange (s : State) : Prop where
  i_pos : 1 ≤ s.i.toNat
  i_le : s.i.toNat ≤ 382
  cursor_le_half : s.cursor.toNat ≤ 127 * ((s.i.toNat - 1) / 2)
  cursor_le : s.cursor.toNat ≤ 16129
  cursor_le_canvas : s.cursor.toNat ≤ s.params.canvasBytes

/-- The invariant: the canvas is in canonical form and inside its bounds, the sub-frame indices are legal, the
width-limited registers hold values of their widths, and the cursors are in range at every segment boundary. -/
structure Inv (s : State) : Prop where
  params_ok : ParamsOk s.params
  canvas_wf : Memory.wf s.canvas = true
  canvas_below : Memory.below s.params.canvasBytes s.canvas = true
  tapIdx_lt : s.tapIdx.toNat < s.params.tapFrames
  idleIdx_lt : s.idleIdx.toNat < s.params.idleFrames
  activityTs_fits : timestamp s.params.tw s.activityTs = s.activityTs
  lastTick_fits : timestamp s.params.tw s.lastTick = s.lastTick
  lastWpm_fits : wpmSample s.params s.lastWpm = s.lastWpm
  base_fits : s.base % 2 ^ s.params.aw = s.base
  cursors : s.phase = .segment → CursorsInRange s

/-- The state stands where the Decoder executes a segment: at a boundary, `i < L`, the invariant holding. -/
structure AtSegment (s : State) : Prop where
  inv : Inv s
  phase : s.phase = .segment
  loop : loopContinues s = true

/-! ### Instantiated machines -/

/-- What is left of a decode at a segment boundary is well-formed: the bytes from `i` to `L - 1` are inside the Frame
Store and are segments laid end to end, and their output is what the canvas still lacks (30_encoding.md R80, seen from
a boundary). -/
def restFits (s : State) : Bool :=
  decide (s.i.toNat ≤ s.L.toNat) && decide (s.base + s.L.toNat ≤ s.params.romSize) &&
    match parseSegments (s.L.toNat - s.i.toNat)
      ((List.range (s.L.toNat - s.i.toNat)).map fun k => storeByte s.params (s.base + s.i.toNat + k)) with
    | some segs => fitsCanvas (s.params.canvasBytes - s.cursor.toNat) s.params.allowLit0 segs
    | none => false

/-- A machine that was instantiated (60_exceptions.md R147), at any point of its run: all its frames are well-formed, no
violation has happened, and a decode in progress is one of a well-formed frame. -/
structure Sound (s : State) : Prop where
  inv : Inv s
  frames : allFramesOk s.params = true
  pawsFrames_pos : 0 < s.params.pawsFrames
  no_violation : s.violation = none
  header : s.phase = .header → wellFormedFrame s.params s.base = true
  segment : s.phase = .segment → restFits s = true

/-! ### Monotonic time -/

/-- The host times of pending operations, in order. -/
def hostTimes (ops : List HostOp) : List Nat :=
  ops.filterMap fun op =>
    match op with
    | .render t _ => some t
    | .activity t => some t
    | .rotation => none

/-- The host keeps its duty (70_reset_and_hazards.md R169) with unbounded timestamps: its times do not go backwards, and
none is before a time the block already holds. -/
structure MonotonicHost (s : State) : Prop where
  unbounded : s.params.tw = none
  rising : (hostTimes s.hostOps).Pairwise (· ≤ ·)
  after_activity : ∀ t ∈ hostTimes s.hostOps, s.activityTs ≤ t
  after_tick : ∀ t ∈ hostTimes s.hostOps, s.lastTick ≤ t

/-- How far an animation state is from activity: the order of 41_selector.md R121. -/
def AnimState.rank : AnimState → Nat
  | .tapping => 0
  | .cooldown => 1
  | .idling => 2
  | .asleep => 3

/-- The same machine on the other half of the display: only the side strap differs (41_selector.md R117). -/
def onSide (side : Side) (s : State) : State := { s with params := { s.params with side := side } }

/-! ### What a segment appends and leaves alone -/

/-- The events of the literal loop: read, write, read, write (40_decoder_segments.md R94). -/
def literalEvents : ReadCursor → WriteCursor → List Byte → List Event
  | _, _, [] => []
  | i, p, b :: rest => .fr i b :: .sw b p :: literalEvents (i + 1) (p + 1) rest

/-- The events of the fill loop: `count` writes (40_decoder_segments.md R95). -/
def fillEvents : WriteCursor → Byte → Nat → List Event
  | _, _, 0 => []
  | p, v, k + 1 => .sw v p :: fillEvents (p + 1) v k

/-- The offsets read, in order. -/
def readOffsets (events : List Event) : List Nat :=
  events.filterMap fun e =>
    match e with
    | .fr off _ => some off.toNat
    | .sw _ _ => none

/-- The positions written, in order. -/
def writePositions (events : List Event) : List Nat :=
  events.filterMap fun e =>
    match e with
    | .fr _ _ => none
    | .sw _ p => some p.toNat

/-- The bytes written, in order. -/
def writtenBytes (events : List Event) : List Byte :=
  events.filterMap fun e =>
    match e with
    | .fr _ _ => none
    | .sw v _ => some v

/-- How many of `count` offsets from `off` up lie outside the Frame Store. -/
def outsideCount (s : State) (off count : Nat) : Nat := (List.range count).countP fun k => outsideStore s (off + k)

/-- Everything no item of a frame writes: the parameters, `base`, the Selector registers, the Activity Timestamp, the
host's side. -/
structure SelectorSame (s t : State) : Prop where
  params : t.params = s.params
  base : t.base = s.base
  idleIdx : t.idleIdx = s.idleIdx
  tapIdx : t.tapIdx = s.tapIdx
  lastTick : t.lastTick = s.lastTick
  lastWpm : t.lastWpm = s.lastWpm
  activityTs : t.activityTs = s.activityTs
  hostOps : t.hostOps = s.hostOps
  hostCalls : t.hostCalls = s.hostCalls

end Sys2Proof.Machine
end

