-- ==== Sys2Proof/Certificates/Slice0/Obligations.lean ====
section
/-!
DEFINITION. The statements for the provers, in the order of OBLIGATIONS.json. Each docstring names the rule of spec/
its statement formalises, and the log entry (notes/assumptions) of every choice of the model it rests on.
-/

open Sys2Proof Sys2Proof.Machine

/-! ### Encoding -/

/-- R71, R73, R74, R76: an item decoded at its position from its own bytes, whatever follows them, is that item, and
the bytes after it are left. -/
def Obligations.DecodeOfEncodeIsTheItem : Prop :=
  ∀ (i : Instr) (rest : List Byte), i.wf = true → decode i.position (encode i ++ rest) = .ok i rest

/-- R70, R76: the bytes of any list of well-formed segments, laid end to end, parse back as exactly that list: no bit of
a segment is dropped, and no boundary is misplaced. -/
def Obligations.SegmentListParsesBack : Prop :=
  ∀ segs : List Instr, (∀ x ∈ segs, x.isSegment = true ∧ x.wf = true) →
    parseSegments (segmentBytes segs).length (segmentBytes segs) = some segs

/-- R73 to R76: what is decoded is a well-formed item of its position, and its encoding with the rest is the bytes that
were decoded, so no two items share an encoding. -/
def Obligations.EncodeOfDecodeIsTheBytes : Prop :=
  ∀ (pos : Position) (bytes : List Byte) (i : Instr) (rest : List Byte), decode pos bytes = .ok i rest →
    i.wf = true ∧ i.position = pos ∧ encode i ++ rest = bytes

/-- R81: the byte at offset 0 is the header whatever its bits; at a segment boundary `1nnnnnnn` is LIT with count
`nnnnnnn` and the `n` bytes after it, wherever there are `n` or more, and `0nnnnnnn` is REP with count `nnnnnnn` and the
next byte as its fill value, wherever there is one. Every control byte is one of the two. -/
def Obligations.EveryControlByteIsAllocated : Prop :=
  ∀ (c : Byte) (payload : List Byte),
    decode .header (c :: payload) = .ok (.hdr c) payload ∧
    (128 ≤ c.toNat → c.toNat - 128 ≤ payload.length → ∃ n : Count, n.toNat = c.toNat - 128 ∧
      decode .segment (c :: payload) = .ok (.lit n (payload.take n.toNat)) (payload.drop n.toNat)) ∧
    (c.toNat < 128 → ∀ (v : Byte) (rest : List Byte), payload = v :: rest → ∃ n : Count, n.toNat = c.toNat ∧
      decode .segment (c :: payload) = .ok (.rep n v) rest)

/-- R71, R73, R74, R77, R78: some words written out from the spec's encodings, the source's examples SV1 and SV2 among
them, decode to the items they stand for; the same byte is a header or a control byte by its position alone. -/
def Obligations.SpecWordsDecode : Prop :=
  decode .header [0x04#8, 0x82#8, 0xAA#8, 0xBB#8] = .ok (.hdr 0x04#8) [0x82#8, 0xAA#8, 0xBB#8] ∧
  decode .segment [0x82#8, 0xAA#8, 0xBB#8] = .ok (.lit 2#7 [0xAA#8, 0xBB#8]) [] ∧
  decode .segment [0x02#8, 0x5F#8] = .ok (.rep 2#7 0x5F#8) [] ∧
  decode .segment [0x80#8, 0x01#8] = .ok (.lit 0#7 []) [0x01#8] ∧
  decode .segment [0x00#8, 0xEE#8] = .ok (.rep 0#7 0xEE#8) [] ∧
  decode .header [0x82#8] = .ok (.hdr 0x82#8) []

/-! ### The step and the items it runs -/

/-- R92, R93, R103: with a decode in progress the step is the meaning of the item its bytes decode to, and nothing
around it: at offset 0 the header, at a segment boundary with `i < L` one whole segment. -/
def Obligations.StepRunsDecodedItem : Prop :=
  (∀ (s : State) (i : Instr) (rest : List Byte), s.phase = .header →
    decode .header (fetchBytes s .header) = .ok i rest → Machine.step s = exec i s) ∧
  (∀ (s : State) (i : Instr) (rest : List Byte), s.phase = .segment → s.i.toNat < s.L.toNat →
    decode .segment (fetchBytes s .segment) = .ok i rest → Machine.step s = exec i s)

/-- R51, R76, R85: the bytes of the frame that are fetched always decode to one well-formed item of the position, with
none left over: the item's encoding is the frame's bytes from the read cursor on. -/
def Obligations.FetchedBytesAlwaysDecode : Prop :=
  ∀ (s : State) (pos : Position), ∃ i : Instr, decode pos (fetchBytes s pos) = .ok i [] ∧
    i.wf = true ∧ i.position = pos ∧ encode i = fetchBytes s pos ∧
    ∀ k, (h : k < (encode i).length) →
      (encode i)[k] = frameByte s ((match pos with | .header => 0 | .segment => s.i.toNat) + k)

/-- Log entry 25: a table word stored by `withFetchWord` is what the very next step runs. -/
def Obligations.StepRunsStoredTableWord : Prop :=
  ∀ (s : State) (nbits w : Nat) (i : Instr), decodeTableWord nbits w = some i →
    Machine.step (s.withFetchWord nbits w) = exec i (s.withFetchWord nbits w)

/-- R92: at a segment boundary with `i >= L` the decode is over: no Decoder register and no canvas byte is written, the
block is idle and RENDER's boolean is returned (R118). A canvas left short is recorded (R145, log entry 7). -/
def Obligations.LoopTestEndsDecode : Prop :=
  ∀ s : State, s.phase = .segment → s.L.toNat ≤ s.i.toNat →
    Machine.step s = .next { s with
      phase := .idle
      hostCalls := s.hostCalls ++ [.renderReturned s.params.renderRet]
      violation := s.violation.or (if s.cursor.toNat < s.params.canvasBytes then some .underfill else none) }

/-- R91: HDR completes in every state, loads `L`, sets `i` to 1 and `cursor` to 0, appends its one event, and changes
nothing else. (The violation record and the draw counter are the model's own: log entries 4 and 9.) -/
def Obligations.HdrStartsTheFrame : Prop :=
  ∀ (l : Byte) (s : State), exec (.hdr l) s = .next { s with
    L := l
    i := 1
    cursor := 0
    phase := .segment
    trace := s.trace ++ [.fr 0 l]
    violation := s.violation.or
      (if s.params.romSize ≤ s.base + (max l.toNat 1 - 1) then some .badFrame else none)
    draws := s.draws + (if s.params.romSize ≤ s.base then 1 else 0) }

/-- R92 with R91's corner case: with `L = 0` or `L = 1` the loop exits at once, with no further read and no write, so
the step after the header ends the decode with the trace and the canvas as the header left them. -/
def Obligations.EmptyFrameEndsAtOnce : Prop :=
  ∀ (l : Byte) (s : State), l.toNat ≤ 1 → ∃ t u : State, exec (.hdr l) s = .next t ∧ Machine.step t = .next u ∧
    u.phase = .idle ∧ u.trace = s.trace ++ [.fr 0 l] ∧ u.canvas = s.canvas ∧ u.i = 1 ∧ u.cursor = 0

/-- R93, R94: LIT completes wherever the Decoder executes a segment and its output stays on the canvas. `i` advances by
`1 + n`, `cursor` by `n`; position `cursor + k` receives the `k`-th literal byte and every other position reads as
before; the reads and writes alternate; nothing else changes. (Bytes read past `L` or outside the Frame Store are
operands like any other: log entry 4.) -/
def Obligations.LitCopiesItsLiterals : Prop :=
  ∀ (n : Count) (bytes : List Byte) (s : State), AtSegment s → (Instr.lit n bytes).wf = true →
    s.cursor.toNat + n.toNat ≤ s.params.canvasBytes →
    ∃ t : State, exec (.lit n bytes) s = .next t ∧
      t.i.toNat = s.i.toNat + 1 + n.toNat ∧ t.cursor.toNat = s.cursor.toNat + n.toNat ∧
      t.c = litControl n ∧ t.n = n ∧ t.v = bytes.getLast?.getD s.v ∧
      (∀ k, k < n.toNat → canvasRead t (s.cursor.toNat + k) = bytes[k]?) ∧
      (∀ p, p < s.cursor.toNat ∨ s.cursor.toNat + n.toNat ≤ p → canvasRead t p = canvasRead s p) ∧
      t.trace = s.trace ++ .fr s.i (litControl n) :: literalEvents (s.i + 1) s.cursor bytes ∧
      t.violation = s.violation.or
        (if n.toNat = 0 then (if s.params.allowLit0 then none else some .lit0)
         else if s.L.toNat < s.i.toNat + 1 + n.toNat then some .overread else none) ∧
      t.draws = s.draws + outsideCount s s.i.toNat (1 + n.toNat) ∧
      t.L = s.L ∧ t.phase = s.phase ∧ SelectorSame s t

/-- R144 for LIT: where the run goes past the canvas, the machine faults at the first write beyond it, with every event
up to and including that write in the trace; and R149: what it reports is the decode's first violation, an earlier one, or
an over-read among this run's reads up to that write, or the overrun itself. -/
def Obligations.LitBeyondCanvasFaults : Prop :=
  ∀ (n : Count) (bytes : List Byte) (s : State), AtSegment s → (Instr.lit n bytes).wf = true →
    s.params.canvasBytes < s.cursor.toNat + n.toNat →
    exec (.lit n bytes) s = .fault (.overrun (s.trace ++ .fr s.i (litControl n) ::
      literalEvents (s.i + 1) s.cursor (bytes.take (s.params.canvasBytes - s.cursor.toNat + 1)))
      (s.violation.getD (if s.L.toNat ≤ s.i.toNat + 1 + (s.params.canvasBytes - s.cursor.toNat) then .overread
        else .overrun)))

/-- R78: control byte 0x80 is a one-byte segment: nothing is read after it, nothing is written, `i` has moved by one. It
is never a fault of the Decoder (R146), in any state. -/
def Obligations.LitOfCountZeroOnlyMovesOn : Prop :=
  ∀ s : State, s.phase = .segment → s.i.toNat < s.L.toNat → ∃ t : State, exec (.lit 0#7 []) s = .next t ∧
    t.i = s.i + 1 ∧ t.cursor = s.cursor ∧ t.canvas = s.canvas ∧ t.v = s.v ∧
    t.c = 0x80#8 ∧ t.n = 0#7 ∧ t.trace = s.trace ++ [.fr s.i 0x80#8] ∧
    t.L = s.L ∧ t.phase = s.phase ∧ SelectorSame s t

/-- R93, R95: REP completes wherever the Decoder executes a segment and its output stays on the canvas. `i` advances by
exactly 2 whatever the count, the fill byte is read once, `cursor` advances by `n`; positions `cursor` to
`cursor + n - 1` receive the fill value and every other position reads as before; one read, then the writes; nothing
else changes. -/
def Obligations.RepRepeatsItsFill : Prop :=
  ∀ (n : Count) (v : Byte) (s : State), AtSegment s → s.cursor.toNat + n.toNat ≤ s.params.canvasBytes →
    ∃ t : State, exec (.rep n v) s = .next t ∧
      t.i.toNat = s.i.toNat + 2 ∧ t.cursor.toNat = s.cursor.toNat + n.toNat ∧
      t.c = repControl n ∧ t.n = n ∧ t.v = v ∧
      (∀ k, k < n.toNat → canvasRead t (s.cursor.toNat + k) = some v) ∧
      (∀ p, p < s.cursor.toNat ∨ s.cursor.toNat + n.toNat ≤ p → canvasRead t p = canvasRead s p) ∧
      t.trace = s.trace ++ .fr s.i (repControl n) :: .fr (s.i + 1) v :: fillEvents s.cursor v n.toNat ∧
      t.violation = s.violation.or (if s.L.toNat ≤ s.i.toNat + 1 then some .overread else none) ∧
      t.draws = s.draws + outsideCount s s.i.toNat 2 ∧
      t.L = s.L ∧ t.phase = s.phase ∧ SelectorSame s t

/-- R144 and R149 for REP: the same, with the write that goes beyond the canvas the last event of the trace, and an
over-read of the fill byte reported before it. -/
def Obligations.RepBeyondCanvasFaults : Prop :=
  ∀ (n : Count) (v : Byte) (s : State), AtSegment s → s.params.canvasBytes < s.cursor.toNat + n.toNat →
    exec (.rep n v) s = .fault (.overrun (s.trace ++ .fr s.i (repControl n) :: .fr (s.i + 1) v ::
      fillEvents s.cursor v (s.params.canvasBytes - s.cursor.toNat + 1))
      (s.violation.getD (if s.L.toNat ≤ s.i.toNat + 1 then .overread else .overrun)))

/-- R77: REP with count 0 is a legal no-op: it occupies 2 bytes, its fill byte is read, it emits no output and leaves
`cursor` unchanged. -/
def Obligations.RepOfCountZeroReadsItsFillOnly : Prop :=
  ∀ (v : Byte) (s : State), s.phase = .segment → s.i.toNat < s.L.toNat → ∃ t : State,
    exec (.rep 0#7 v) s = .next t ∧ (encode (.rep 0#7 v)).length = 2 ∧
    t.i = s.i + 2 ∧ t.cursor = s.cursor ∧ t.canvas = s.canvas ∧ t.v = v ∧
    t.c = 0x00#8 ∧ t.n = 0#7 ∧ t.trace = s.trace ++ [.fr s.i 0x00#8, .fr (s.i + 1) v] ∧
    t.L = s.L ∧ t.phase = s.phase ∧ SelectorSame s t

/-- The frame of all three items in every state: no item writes the parameters, `base`, a Selector register, the
Activity Timestamp or the host's side, and the only canvas positions an item can change are those its output goes to,
from `cursor` up. -/
def Obligations.ItemsChangeOnlyDecoderAndOutput : Prop :=
  ∀ (i : Instr) (s t : State), exec i s = .next t → SelectorSame s t ∧
    ∀ p, (∀ k, k < i.expand.length → (s.cursor + BitVec.ofNat 16 k).toNat ≠ p) → canvasRead t p = canvasRead s p

/-! ### Whole decodes -/

/-- R99, R170: every decode of every byte sequence ends: from any state with a decode in progress at most 256 steps (the
header, at most 254 segments and the end) lead to the idle block or to the fault of R144. The model's choices in this:
an over-read goes on (log entry 4; R143 also offers a fault), the size of a step (log entry 3), and on malformed frames
the 9 bits of `i` (log entry 29, the spec's D2). -/
def Obligations.EveryDecodeEnds : Prop :=
  ∀ s : State, s.phase ≠ .idle → ∃ k, k ≤ 256 ∧
    ((∃ t, runSteps k s = .next t ∧ t.phase = .idle) ∨ (∃ trace w, runSteps k s = .fault (.overrun trace w)))

/-- R96, R97, R101: a decode of the frame assembled from any list of segments writes the concatenation of what the
segments expand to, from position 0 up, and leaves the other positions alone; it ends with `i = L`, `cursor` equal to
the length of the output, and the frame's bytes read once each in order. The model's choices in this: the steps counted
(log entry 3), `L`, `i` and `cursor` after the decode has ended (log entry 35), and that RENDER then returns the constant
`RENDER_RET` (R118; log entry 17, the spec's D12). -/
def Obligations.AssembledFrameDecodesToItsOutput : Prop :=
  ∀ (s : State) (segs : List Instr) (frame : List Byte), s.phase = .header →
    (∀ x ∈ segs, x.isSegment = true ∧ x.wf = true) → assemble segs = some frame →
    (∀ k, (h : k < frame.length) → s.base + k < s.params.romSize ∧ storeByte s.params (s.base + k) = frame[k]) →
    (outputOf segs).length ≤ s.params.canvasBytes →
    ∃ t events, runSteps (segs.length + 2) s = .next t ∧ t.phase = .idle ∧
      t.i.toNat = frame.length ∧ t.L.toNat = frame.length ∧ t.cursor.toNat = (outputOf segs).length ∧
      (∀ p, p < (outputOf segs).length → canvasRead t p = (outputOf segs)[p]?) ∧
      (∀ p, (outputOf segs).length ≤ p → canvasRead t p = canvasRead s p) ∧
      t.trace = s.trace ++ events ∧ readOffsets events = List.range frame.length ∧
      writtenBytes events = outputOf segs ∧ writePositions events = List.range (outputOf segs).length ∧
      SelectorSame { s with hostCalls := s.hostCalls ++ [.renderReturned s.params.renderRet] } t

/-- R80, R96, R99, R142: a decode of a well-formed frame meets no contract violation and no fault, ends with `i = L`
and `cursor = CANVAS_BYTES`, gives every canvas position a value, reads each offset 0 to `L - 1` exactly once in
ascending order and writes each position exactly once in ascending order. -/
def Obligations.WellFormedFrameFillsTheCanvas : Prop :=
  ∀ s : State, s.phase = .header → s.violation = none → wellFormedFrame s.params s.base = true →
    ∃ k t events, runSteps k s = .next t ∧ t.phase = .idle ∧ t.violation = none ∧ t.draws = s.draws ∧
      t.i.toNat = (storeByte s.params s.base).toNat ∧ t.cursor.toNat = s.params.canvasBytes ∧
      (∀ p, p < s.params.canvasBytes → canvasRead t p = (writtenBytes events)[p]? ∧ (canvasRead t p).isSome) ∧
      t.trace = s.trace ++ events ∧ readOffsets events = List.range (storeByte s.params s.base).toNat ∧
      writePositions events = List.range s.params.canvasBytes

/-- R98, R100: the decode of a well-formed frame depends on nothing but the frame's own bytes: two machines whose
frames hold the same bytes, at whatever bases, over whatever other Frame Store bytes, canvases and registers, append the
same events and leave the same canvas. -/
def Obligations.DecodeDependsOnFrameBytesOnly : Prop :=
  ∀ s s' : State, s.phase = .header → s'.phase = .header →
    wellFormedFrame s.params s.base = true → wellFormedFrame s'.params s'.base = true →
    s.params.canvasBytes = s'.params.canvasBytes →
    (∀ k, k < max (storeByte s.params s.base).toNat 1 →
      storeByte s.params (s.base + k) = storeByte s'.params (s'.base + k)) →
    ∃ k t t' events, runSteps k s = .next t ∧ runSteps k s' = .next t' ∧ t.phase = .idle ∧ t'.phase = .idle ∧
      t.trace = s.trace ++ events ∧ t'.trace = s'.trace ++ events ∧
      ∀ p, p < s.params.canvasBytes → canvasRead t p = canvasRead t' p

/-! ### Every step -/

/-- R24, R25, R31, R32, R46, R56 and the widths of R20's table: the invariant is kept by every step, from every state
that meets it. -/
def Obligations.StepKeepsInvariant : Prop :=
  ∀ s t : State, Inv s → Machine.step s = .next t → Inv t

/-- The state after reset meets the invariant. -/
def Obligations.ResetMeetsInvariant : Prop := Inv State.reset

/-- R171: `SIDE`, `ROLE`, `ACT_MODE`, `D`, `TIMEOUT`, `ROM` and `FT` (and every other parameter) are the same after
every step. -/
def Obligations.StepKeepsParameters : Prop :=
  ∀ s t : State, Machine.step s = .next t → t.params = s.params

/-- R12, R85, R140: no step is refused: every byte sequence is executed, and every host operation has its step. -/
def Obligations.NoStepIsRefused : Prop :=
  ∀ (s : State) (q : Refusal), Machine.step s ≠ .refused q

/-- The model's one fault is `V_OVERRUN` (R144; log entry 6): a step faults only while the Decoder executes a segment,
and then the last event of the trace the fault carries, which continues the trace so far, is a write at a position beyond
the canvas. That nothing else faults is the model's choice: the block has no fault at all (R140), and for an over-read, a
short decode and a bad frame at run time the model goes on where R143 and R145 also offer a fault (log entries 4, 7, 9). -/
def Obligations.OnlyAWriteBeyondCanvasFaults : Prop :=
  ∀ (s : State) (f : Fault), Machine.step s = .fault f → s.phase = .segment ∧ s.i.toNat < s.L.toNat ∧
    ∃ (events : List Event) (v : Byte) (p : WriteCursor) (w : Violation),
      f = .overrun (s.trace ++ events ++ [.sw v p]) w ∧ s.params.canvasBytes ≤ p.toNat

/-- R15: the event trace only grows: what it holds before a step stands at its front after it. -/
def Obligations.TraceOnlyGrows : Prop :=
  ∀ s t : State, Machine.step s = .next t → ∃ events, t.trace = s.trace ++ events

/-- R50, R61(f), R166: while a decode is in progress no step takes a host operation or changes a Selector register or
the Activity Timestamp, and while none is in progress no step changes the canvas or appends an event. -/
def Obligations.HostAndDecoderNeverOverlap : Prop :=
  (∀ s t : State, s.phase ≠ .idle → Machine.step s = .next t →
    t.hostOps = s.hostOps ∧ t.idleIdx = s.idleIdx ∧ t.tapIdx = s.tapIdx ∧ t.lastTick = s.lastTick ∧
      t.lastWpm = s.lastWpm ∧ t.activityTs = s.activityTs) ∧
  (∀ s t : State, s.phase = .idle → Machine.step s = .next t →
    t.trace = s.trace ∧ ∀ p, canvasRead t p = canvasRead s p)

/-- R165: no overlap, no re-entry: an entry point invoked while a RENDER is in progress has no step, and no step taken
while a decode is in progress starts a decode or takes a host operation (R61(f), R166). That ACTIVITY and ROTATION are
refused as RENDER is rests on R166 and is log entry 10. -/
def Obligations.ReentrantInvocationRefused : Prop :=
  (∀ (op : HostOp) (s : State), s.phase ≠ .idle → invoke op s = .refused .reentrant) ∧
  (∀ s t : State, s.phase ≠ .idle → Machine.step s = .next t →
    t.phase ≠ .header ∧ t.base = s.base ∧ t.hostOps = s.hostOps)

/-- R28: the write cursor is a sequential counter: it is 0 at every decode's start, each write uses its current value as
the position and then adds 1, and every other step adds to it exactly the number of writes it makes and sets it to nothing
else. Where the invariant holds (its bound is the rule R25's) that sum does not wrap, so it never decreases. -/
def Obligations.WriteCursorIsSequential : Prop :=
  (∀ (v : Byte) (s t : State), sinkWrite v s = .next t →
    t.trace = s.trace ++ [.sw v s.cursor] ∧ t.cursor = s.cursor + 1) ∧
  (∀ s t : State, s.phase = .header → Machine.step s = .next t →
    t.cursor = 0 ∧ ∃ events, t.trace = s.trace ++ events ∧ writePositions events = []) ∧
  (∀ s t : State, s.phase ≠ .header → Machine.step s = .next t → ∃ events, t.trace = s.trace ++ events ∧
    t.cursor = s.cursor + BitVec.ofNat 16 (writePositions events).length ∧
    (Inv s → t.cursor.toNat = s.cursor.toNat + (writePositions events).length))

/-- R37, R169: with unbounded timestamps and a host whose clock never goes backwards, every pending host time stays at or
after every time the block holds, at every step. -/
def Obligations.MonotonicHostStaysAhead : Prop :=
  ∀ s t : State, MonotonicHost s → Machine.step s = .next t → MonotonicHost t

/-! ### The Selector and the host operations -/

/-- R161, R172: an idle block to which the host has given no operation does nothing. -/
def Obligations.IdleBlockWaitsForTheHost : Prop :=
  ∀ s : State, s.phase = .idle → s.hostOps = [] → Machine.step s = .next s

/-- R43 to R46, R161: the state after reset. The zeros of the Selector registers and of the Activity Timestamp are the
spec's own decision (D15, D26); log entries 11 and 13. -/
def Obligations.ResetState : Prop :=
  State.reset.idleIdx = 0 ∧ State.reset.tapIdx = 0 ∧ State.reset.lastTick = 0 ∧ State.reset.lastWpm = 0 ∧
    State.reset.activityTs = 0 ∧ State.reset.phase = .idle ∧ ∀ p, canvasRead State.reset p = none

/-- R119: ACTIVITY writes the host's time into the Activity Timestamp, in either activity mode, and no other register. -/
def Obligations.ActivityWritesTheTimestampOnly : Prop :=
  ∀ (s : State) (time : Nat) (ops : List HostOp), s.phase = .idle → s.hostOps = .activity time :: ops →
    Machine.step s = .next { s with hostOps := ops, activityTs := timestamp s.params.tw time }

/-- R120: ROTATION returns `ROT(Side(), Role())` and writes no register of the block. -/
def Obligations.RotationReturnsTheOrientation : Prop :=
  ∀ (s : State) (ops : List HostOp), s.phase = .idle → s.hostOps = .rotation :: ops →
    Machine.step s = .next { s with
      hostOps := ops
      hostCalls := s.hostCalls ++ [.rotationReturned (Config.rotation s.params.side s.params.role)] }

/-- R112: `elapsed` is `(now - activity_ts) mod 2^TW`, and the plain difference when `TW` is unbounded. -/
def Obligations.ElapsedIsTheDifference : Prop :=
  (∀ w now ts : Nat, now < 2 ^ w → ts < 2 ^ w →
    (elapsedSince (some w) now ts : Int) = ((now : Int) - (ts : Int)) % (2 ^ w : Int)) ∧
  (∀ now ts : Nat, ts ≤ now → elapsedSince none now ts = now - ts)

/-- R112, R113: the animation state is the one the table of R113 gives: Asleep strictly above `TIMEOUT`, else Tapping,
Cooldown, Idling, each interval closed below and open above. -/
def Obligations.AnimationStateByThresholds : Prop :=
  ∀ (p : Params) (e : Nat),
    (animState p e = .asleep ↔ p.timeout < e) ∧
    (animState p e = .tapping ↔ e ≤ p.timeout ∧ e < 2 * p.d) ∧
    (animState p e = .cooldown ↔ e ≤ p.timeout ∧ 2 * p.d ≤ e ∧ e < 8 * p.d) ∧
    (animState p e = .idling ↔ e ≤ p.timeout ∧ 2 * p.d ≤ e ∧ 8 * p.d ≤ e)

/-- R121: as the elapsed time grows without re-stimulus the animation state never goes back towards Tapping. -/
def Obligations.ProgressionWithoutRestimulus : Prop :=
  ∀ (p : Params) (e e' : Nat), e ≤ e' → (animState p e).rank ≤ (animState p e').rank

/-- R111: what RENDER does to the Activity Timestamp and the stored sample, whatever it then decides, power-off
included: in `WPM` mode a strictly larger sample than the previous tick's is activity at `now` and the fresh sample is
stored in any case; in `KEY` mode neither is written and the sample is not looked at. (Stage order: the spec's D19.) -/
def Obligations.RenderTakesTheWpmSample : Prop :=
  ∀ (s : State) (time w : Nat) (ops : List HostOp), s.phase = .idle → s.hostOps = .render time w :: ops →
    ∃ t : State, Machine.step s = .next t ∧
      (s.params.actMode = .wpm →
        t.lastWpm = w % 2 ^ s.params.ww ∧
        (s.lastWpm < w % 2 ^ s.params.ww → t.activityTs = timestamp s.params.tw time) ∧
        (w % 2 ^ s.params.ww ≤ s.lastWpm → t.activityTs = s.activityTs)) ∧
      (s.params.actMode = .key → t.lastWpm = s.lastWpm ∧ t.activityTs = s.activityTs ∧
        ∀ w', Machine.step { s with hostOps := .render time w' :: ops } = .next t)

/-- R114: a Tapping tick advances the tap index modulo the tap-set size, starts the decode of the tap frame at the new
index on the controller's side, and writes `last_tick`; it touches neither the idle index nor the canvas. Here and in
the next three, `act` and `wpm` are what the activity stage left (R111). -/
def Obligations.TappingTick : Prop :=
  ∀ (s : State) (time w : Nat) (ops : List HostOp) (act wpm : Nat), Inv s → s.phase = .idle →
    s.hostOps = .render time w :: ops →
    act = (if s.params.actMode = .wpm ∧ s.lastWpm < w % 2 ^ s.params.ww then timestamp s.params.tw time
      else s.activityTs) →
    wpm = (if s.params.actMode = .wpm then w % 2 ^ s.params.ww else s.lastWpm) →
    elapsedSince s.params.tw (timestamp s.params.tw time) act ≤ s.params.timeout →
    elapsedSince s.params.tw (timestamp s.params.tw time) act < 2 * s.params.d →
    ∃ t : State, Machine.step s = .next t ∧ t.tapIdx.toNat = (s.tapIdx.toNat + 1) % s.params.tapFrames ∧
      t = { s with
        hostOps := ops, activityTs := act, lastWpm := wpm
        lastTick := timestamp s.params.tw time
        tapIdx := t.tapIdx
        base := frameTable s.params s.params.side .tap ((s.tapIdx.toNat + 1) % s.params.tapFrames) % 2 ^ s.params.aw
        phase := .header, violation := none }

/-- R115: a Cooldown tick starts the decode of the single paws frame on the controller's side and writes `last_tick`;
neither index is written. -/
def Obligations.CooldownTick : Prop :=
  ∀ (s : State) (time w : Nat) (ops : List HostOp) (act wpm : Nat), s.phase = .idle →
    s.hostOps = .render time w :: ops →
    act = (if s.params.actMode = .wpm ∧ s.lastWpm < w % 2 ^ s.params.ww then timestamp s.params.tw time
      else s.activityTs) →
    wpm = (if s.params.actMode = .wpm then w % 2 ^ s.params.ww else s.lastWpm) →
    elapsedSince s.params.tw (timestamp s.params.tw time) act ≤ s.params.timeout →
    2 * s.params.d ≤ elapsedSince s.params.tw (timestamp s.params.tw time) act →
    elapsedSince s.params.tw (timestamp s.params.tw time) act < 8 * s.params.d →
    Machine.step s = .next { s with
      hostOps := ops, activityTs := act, lastWpm := wpm
      lastTick := timestamp s.params.tw time
      base := frameTable s.params s.params.side .paws 0 % 2 ^ s.params.aw
      phase := .header, violation := none }

/-- R116: an Idling tick advances the idle index, from the last index back to 0, starts the decode of the idle frame at
the new index on the controller's side, and writes `last_tick`; the tap index is not touched. -/
def Obligations.IdlingTick : Prop :=
  ∀ (s : State) (time w : Nat) (ops : List HostOp) (act wpm : Nat), Inv s → s.phase = .idle →
    s.hostOps = .render time w :: ops →
    act = (if s.params.actMode = .wpm ∧ s.lastWpm < w % 2 ^ s.params.ww then timestamp s.params.tw time
      else s.activityTs) →
    wpm = (if s.params.actMode = .wpm then w % 2 ^ s.params.ww else s.lastWpm) →
    elapsedSince s.params.tw (timestamp s.params.tw time) act ≤ s.params.timeout →
    2 * s.params.d ≤ elapsedSince s.params.tw (timestamp s.params.tw time) act →
    8 * s.params.d ≤ elapsedSince s.params.tw (timestamp s.params.tw time) act →
    ∃ t : State, Machine.step s = .next t ∧ t.idleIdx.toNat = (s.idleIdx.toNat + 1) % s.params.idleFrames ∧
      t = { s with
        hostOps := ops, activityTs := act, lastWpm := wpm
        lastTick := timestamp s.params.tw time
        idleIdx := t.idleIdx
        base := frameTable s.params s.params.side .idle ((s.idleIdx.toNat + 1) % s.params.idleFrames) % 2 ^ s.params.aw
        phase := .header, violation := none }

/-- R112: above the timeout `DisplayOff()` is invoked, RENDER returns, and no Selector register is written, no frame is
decoded and nothing is written to the canvas, on every such tick. -/
def Obligations.PowerOffTick : Prop :=
  ∀ (s : State) (time w : Nat) (ops : List HostOp) (act wpm : Nat), s.phase = .idle →
    s.hostOps = .render time w :: ops →
    act = (if s.params.actMode = .wpm ∧ s.lastWpm < w % 2 ^ s.params.ww then timestamp s.params.tw time
      else s.activityTs) →
    wpm = (if s.params.actMode = .wpm then w % 2 ^ s.params.ww else s.lastWpm) →
    s.params.timeout < elapsedSince s.params.tw (timestamp s.params.tw time) act →
    Machine.step s = .next { s with
      hostOps := ops, activityTs := act, lastWpm := wpm
      hostCalls := s.hostCalls ++ [.displayOff, .renderReturned s.params.renderRet] }

/-- R117: the two sides differ in the frame they decode and in nothing else: for the same registers and the same RENDER
both make the same register updates, and where one decodes `FT(LEFT, p, k)` the other decodes `FT(RIGHT, p, k)`. -/
def Obligations.SidesDifferInTheFrameTableOnly : Prop :=
  ∀ (s : State) (time w : Nat) (ops : List HostOp), s.phase = .idle → s.hostOps = .render time w :: ops →
    ∃ t t' : State, Machine.step (onSide .left s) = .next t ∧ Machine.step (onSide .right s) = .next t' ∧
      t' = { onSide .right t with base := t'.base } ∧
      ((t.phase = .idle ∧ t.base = s.base ∧ t'.base = s.base) ∨
        (t.phase = .header ∧ ∃ (pose : Pose) (k : Nat),
          t.base = frameTable s.params .left pose k % 2 ^ s.params.aw ∧
          t'.base = frameTable s.params .right pose k % 2 ^ s.params.aw))

/-- R122: the step that takes a RENDER changes at most the Activity Timestamp and the stored sample (in `WPM` mode only),
`last_tick`, and one of the two sub-frame indices; it starts exactly one decode, of a frame of the controller's side,
where the elapsed time is at most the timeout, and above the timeout it starts none, powers the display off and returns;
and the Decoder's registers other than `base`, the canvas and the parameters are as before (log entry 35). -/
def Obligations.RenderChangesAtMost : Prop :=
  ∀ (s : State) (time w : Nat) (ops : List HostOp) (act wpm : Nat), s.phase = .idle →
    s.hostOps = .render time w :: ops →
    act = (if s.params.actMode = .wpm ∧ s.lastWpm < w % 2 ^ s.params.ww then timestamp s.params.tw time
      else s.activityTs) →
    wpm = (if s.params.actMode = .wpm then w % 2 ^ s.params.ww else s.lastWpm) →
    ∃ t : State, Machine.step s = .next t ∧ t.activityTs = act ∧ t.lastWpm = wpm ∧
      (s.params.actMode = .key → t.activityTs = s.activityTs ∧ t.lastWpm = s.lastWpm) ∧
      (t.tapIdx = s.tapIdx ∨ t.idleIdx = s.idleIdx) ∧
      ((elapsedSince s.params.tw (timestamp s.params.tw time) act ≤ s.params.timeout ∧ t.phase = .header ∧
          t.lastTick = timestamp s.params.tw time ∧ t.hostCalls = s.hostCalls ∧
          ∃ (pose : Pose) (k : Nat), t.base = frameTable s.params s.params.side pose k % 2 ^ s.params.aw) ∨
        (s.params.timeout < elapsedSince s.params.tw (timestamp s.params.tw time) act ∧ t.phase = .idle ∧
          t.hostCalls = s.hostCalls ++ [.displayOff, .renderReturned s.params.renderRet] ∧
          t.tapIdx = s.tapIdx ∧ t.idleIdx = s.idleIdx ∧ t.lastTick = s.lastTick ∧ t.base = s.base)) ∧
      t.hostOps = ops ∧ t.params = s.params ∧ t.canvas = s.canvas ∧ t.trace = s.trace ∧
      t.L = s.L ∧ t.i = s.i ∧ t.cursor = s.cursor ∧ t.c = s.c ∧ t.n = s.n ∧ t.v = s.v

/-! ### Memory -/

/-- R54, R56, R59: a write on the canvas sets its position, and only that; the write cursor moves by one and the write
is the event. -/
def Obligations.SinkWriteSetsItsPosition : Prop :=
  ∀ (v : Byte) (s : State), s.cursor.toNat < s.params.canvasBytes → ∃ t : State, sinkWrite v s = .next t ∧
    t.cursor = s.cursor + 1 ∧ t.trace = s.trace ++ [.sw v s.cursor] ∧
    canvasRead t s.cursor.toNat = some v ∧ ∀ p, p ≠ s.cursor.toNat → canvasRead t p = canvasRead s p

/-- R51, R64: what an in-store offset of a frame reads as is not changed by any step while `base` stays: the Frame Store
is immutable, and no canvas write is seen by a fetch. -/
def Obligations.FrameBytesNeverChange : Prop :=
  ∀ (s t : State) (off : Nat), Machine.step s = .next t → s.phase ≠ .idle → s.base + off < s.params.romSize →
    frameByte t off = frameByte s off

/-! ### Violations -/

/-- R149: among the violations of one decode the first is the one reported: a violation once recorded stays to the end
of the decode, whatever the step, and is what a later fault reports; and a decode begins with none. -/
def Obligations.FirstViolationIsReported : Prop :=
  (∀ (s : State) (x : Violation), s.phase ≠ .idle → s.violation = some x →
    (∀ t, Machine.step s = .next t → t.violation = some x) ∧
    (∀ trace w, Machine.step s = .fault (.overrun trace w) → w = x)) ∧
  (∀ s t : State, s.phase = .idle → Machine.step s = .next t → t.phase = .header → t.violation = none)

/-! ### Instantiated machines -/

/-- R147: the model is instantiated only with a Frame Store and a frame table for which every frame the Selector can
select is well-formed (R80), for both sides, and with any other is refused. -/
def Obligations.InstantiationRefusesBadFrames : Prop :=
  ∀ p : Params,
    ((∀ side : Side, (∀ k, k < p.idleFrames → wellFormedFrame p (frameTable p side .idle k % 2 ^ p.aw) = true) ∧
        (∀ k, k < p.pawsFrames → wellFormedFrame p (frameTable p side .paws k % 2 ^ p.aw) = true) ∧
        (∀ k, k < p.tapFrames → wellFormedFrame p (frameTable p side .tap k % 2 ^ p.aw) = true)) →
      instantiate p = .next { State.reset with params := p }) ∧
    (∀ (side : Side) (pose : Pose) (k : Nat),
      k < (match pose with | .idle => p.idleFrames | .paws => p.pawsFrames | .tap => p.tapFrames) →
      wellFormedFrame p (frameTable p side pose k % 2 ^ p.aw) = false → instantiate p = .refused .badFrame)

/-- R147, R163, R168: the state after reset is one the model is instantiated with: all its 16 frames are well-formed. The
opaque parameters are chosen under that condition (log entry 37). -/
def Obligations.ResetIsInstantiated : Prop := instantiate State.reset.params = .next State.reset

/-- R147, R163: a machine just instantiated, with legal set sizes and a canvas, and whatever the host will ask of it, is
sound. (Its registers are at their reset values: log entries 11, 12, 13.) -/
def Obligations.InstantiatedMachineIsSound : Prop :=
  ∀ (p : Params) (s : State) (ops : List HostOp), ParamsOk p → 0 < p.pawsFrames → instantiate p = .next s →
    Sound { s with hostOps := ops }

/-- R140, R142, R147, R168: an instantiated machine never fails: from every sound state the step answers a next state,
which is sound again: no fault, no refusal, no contract violation and no read outside the Frame Store, for ever, whatever
the host asks. -/
def Obligations.SoundMachineNeverFails : Prop :=
  ∀ s : State, Sound s → ∃ t, Machine.step s = .next t ∧ Sound t ∧ t.draws = s.draws

/-- R110, R122, R170: in an instantiated machine a RENDER at an elapsed time up to the timeout runs to its end: exactly
one decode, of the selected frame, which gives every canvas position a value and writes each once in order, with no
violation; RENDER then returns and the host's next operation is still to come. (The frame is the one
the tick statements name: here the `base` of the state `u` after the tick. The returned constant: log entry 17; `base`
after the decode has ended: log entry 35.) -/
def Obligations.RenderFillsTheCanvas : Prop :=
  ∀ (s : State) (time w : Nat) (ops : List HostOp) (act : Nat), Sound s → s.phase = .idle →
    s.hostOps = .render time w :: ops →
    act = (if s.params.actMode = .wpm ∧ s.lastWpm < w % 2 ^ s.params.ww then timestamp s.params.tw time
      else s.activityTs) →
    elapsedSince s.params.tw (timestamp s.params.tw time) act ≤ s.params.timeout →
    ∃ k u t events, Machine.step s = .next u ∧ u.phase = .header ∧ runSteps k u = .next t ∧
      t.phase = .idle ∧ t.violation = none ∧ t.hostOps = ops ∧ t.base = u.base ∧
      t.idleIdx = u.idleIdx ∧ t.tapIdx = u.tapIdx ∧
      t.hostCalls = s.hostCalls ++ [.renderReturned s.params.renderRet] ∧
      t.lastTick = timestamp s.params.tw time ∧ t.activityTs = act ∧
      t.trace = s.trace ++ events ∧ writePositions events = List.range s.params.canvasBytes ∧
      (∀ p, p < s.params.canvasBytes → canvasRead t p = (writtenBytes events)[p]? ∧ (canvasRead t p).isSome) ∧
      readOffsets events = List.range (storeByte s.params u.base).toNat
end

