-- ==== Sys2Proof/Laws/Decode.lean ====
section
/-!
SUPPORT. The bits of a control byte, both ways, and the bytes of a table word.
-/

namespace Sys2Proof

@[simp] theorem litControl_isLiteral (n : Count) : isLiteral (litControl n) = true := by revert n; decide

@[simp] theorem litControl_count (n : Count) : countField (litControl n) = n := by revert n; decide

@[simp] theorem repControl_isLiteral (n : Count) : isLiteral (repControl n) = false := by revert n; decide

@[simp] theorem repControl_count (n : Count) : countField (repControl n) = n := by revert n; decide

theorem litControl_of_isLiteral (c : Byte) : isLiteral c = true → litControl (countField c) = c := by
  revert c; decide

theorem repControl_of_not_isLiteral (c : Byte) : isLiteral c = false → repControl (countField c) = c := by
  revert c; decide

/-- The count of a literal run's control byte, on naturals. -/
theorem countField_lit (c : Byte) : isLiteral c = true → 128 ≤ c.toNat ∧ (countField c).toNat = c.toNat - 128 := by
  revert c; decide

/-- The count of a repeat run's control byte, on naturals. -/
theorem countField_rep (c : Byte) : isLiteral c = false → c.toNat < 128 ∧ (countField c).toNat = c.toNat := by
  revert c; decide

theorem tableBytes_length (k w : Nat) : (tableBytes k w).length = k := by
  induction k generalizing w with
  | zero => rfl
  | succ k ih => simp [tableBytes, ih]

end Sys2Proof
end

