-- ==== Sys2Proof/Laws/Memory.lean ====
section
/-!
SUPPORT. The laws of memory: a read after a write, the canonical form, the bounds.
-/

namespace Sys2Proof.Machine

/-- A read after a write gives the byte written at the address written, and what stood there at every other. -/
theorem Memory.read_write (m : Memory) (p q : Nat) (v : Byte) :
    Memory.read (Memory.write m p v) q = if q = p then some v else Memory.read m q := by
  induction m with
  | nil => simp [Memory.write, Memory.read, eq_comm]
  | cons cell rest ih =>
    obtain ⟨a, b⟩ := cell
    simp only [Memory.write]
    split
    · simp only [Memory.read, ih]; split_ifs <;> first | rfl | omega
    · split
      · simp only [Memory.read]; split_ifs <;> first | rfl | omega
      · simp only [Memory.read]; split_ifs <;> first | rfl | omega

@[simp] theorem Memory.read_write_same (m : Memory) (p : Nat) (v : Byte) :
    Memory.read (Memory.write m p v) p = some v := by simp [Memory.read_write]

theorem Memory.read_write_other (m : Memory) {p q : Nat} (v : Byte) (h : q ≠ p) :
    Memory.read (Memory.write m p v) q = Memory.read m q := by simp [Memory.read_write, h]

/-- The canonical form of a longer memory is that of its tail, above its first address. -/
theorem Memory.wf_cons (a : Nat) (b : Byte) (m : Memory) :
    Memory.wf ((a, b) :: m) = true ↔ (∀ cell ∈ m.head?, a < cell.1) ∧ Memory.wf m = true := by
  cases m with
  | nil => simp [Memory.wf]
  | cons cell rest => obtain ⟨a', b'⟩ := cell; simp [Memory.wf]

/-- The first address after a write is the old first address or the one written. -/
theorem Memory.head_write (m : Memory) (p : Nat) (v : Byte) (a : Nat) (h : ∀ cell ∈ m.head?, a < cell.1) (hp : a < p) :
    ∀ cell ∈ (Memory.write m p v).head?, a < cell.1 := by
  cases m with
  | nil => simpa [Memory.write] using hp
  | cons cell rest =>
    obtain ⟨x, y⟩ := cell
    have hx : a < x := h (x, y) (by simp)
    simp only [Memory.write]
    split_ifs <;> simp <;> omega

/-- A write keeps the canonical form. -/
theorem Memory.write_wf (m : Memory) (p : Nat) (v : Byte) (h : Memory.wf m = true) :
    Memory.wf (Memory.write m p v) = true := by
  induction m with
  | nil => rfl
  | cons cell rest ih =>
    obtain ⟨a, b⟩ := cell
    have hc := (Memory.wf_cons a b rest).1 h
    simp only [Memory.write]
    split_ifs with h1 h2
    · exact (Memory.wf_cons _ _ _).2 ⟨Memory.head_write rest p v a hc.1 h1, ih hc.2⟩
    · subst h2; exact (Memory.wf_cons _ _ _).2 hc
    · exact (Memory.wf_cons _ _ _).2 ⟨by simp; omega, h⟩

theorem Memory.below_cons (limit a : Nat) (b : Byte) (m : Memory) :
    Memory.below limit ((a, b) :: m) = true ↔ a < limit ∧ Memory.below limit m = true := by
  unfold Memory.below; simp only [List.all_cons, Bool.and_eq_true, decide_eq_true_eq]

/-- A write below the limit keeps every address below it. -/
theorem Memory.write_below (m : Memory) (limit p : Nat) (v : Byte) (h : Memory.below limit m = true) (hp : p < limit) :
    Memory.below limit (Memory.write m p v) = true := by
  induction m with
  | nil => exact (Memory.below_cons _ _ _ _).2 ⟨hp, rfl⟩
  | cons cell rest ih =>
    obtain ⟨a, b⟩ := cell
    have hc := (Memory.below_cons _ _ _ _).1 h
    simp only [Memory.write]
    split_ifs with h1 h2
    · exact (Memory.below_cons _ _ _ _).2 ⟨hc.1, ih hc.2⟩
    · exact (Memory.below_cons _ _ _ _).2 ⟨hp, hc.2⟩
    · exact (Memory.below_cons _ _ _ _).2 ⟨hp, h⟩

/-- Storing bytes in a row keeps the canonical form. -/
theorem Memory.writeAll_wf (bytes : List Byte) (m : Memory) (a : Nat) (h : Memory.wf m = true) :
    Memory.wf (Memory.writeAll m a bytes) = true := by
  induction bytes generalizing m a with
  | nil => exact h
  | cons b rest ih => exact ih _ _ (Memory.write_wf m a b h)

/-- What is read after storing bytes in a row: the byte stored where one was, else what stood there. -/
theorem Memory.read_writeAll (bytes : List Byte) (m : Memory) (a q : Nat) :
    Memory.read (Memory.writeAll m a bytes) q =
      if a ≤ q ∧ q < a + bytes.length then bytes[q - a]? else Memory.read m q := by
  induction bytes generalizing m a with
  | nil =>
    have : ¬ (a ≤ q ∧ q < a) := by omega
    simp [Memory.writeAll, this]
  | cons b rest ih =>
    simp only [Memory.writeAll, ih, Memory.read_write, List.length_cons]
    by_cases hq : q = a
    · subst hq
      have h2 : q ≤ q ∧ q < q + (rest.length + 1) := by omega
      simp [h2]
    · by_cases h : a + 1 ≤ q ∧ q < a + 1 + rest.length
      · have h2 : a ≤ q ∧ q < a + (rest.length + 1) := by omega
        have h3 : q - a = (q - (a + 1)) + 1 := by omega
        rw [if_pos h, if_pos h2, h3, List.getElem?_cons_succ]
      · have h2 : ¬ (a ≤ q ∧ q < a + (rest.length + 1)) := by omega
        rw [if_neg h, if_neg h2, if_neg hq]

end Sys2Proof.Machine
end

