-- ==== Sys2Proof/Laws/State.lean ====
section
/-!
SUPPORT. The fields each shared operation leaves alone, one lemma a field, and the ones it writes.
-/

namespace Sys2Proof.Machine

@[simp] theorem note_params (h : Bool) (w : Violation) (s : State) : (note h w s).params = s.params := by unfold note; split <;> rfl
@[simp] theorem note_base (h : Bool) (w : Violation) (s : State) : (note h w s).base = s.base := by unfold note; split <;> rfl
@[simp] theorem note_L (h : Bool) (w : Violation) (s : State) : (note h w s).L = s.L := by unfold note; split <;> rfl
@[simp] theorem note_i (h : Bool) (w : Violation) (s : State) : (note h w s).i = s.i := by unfold note; split <;> rfl
@[simp] theorem note_cursor (h : Bool) (w : Violation) (s : State) : (note h w s).cursor = s.cursor := by unfold note; split <;> rfl
@[simp] theorem note_c (h : Bool) (w : Violation) (s : State) : (note h w s).c = s.c := by unfold note; split <;> rfl
@[simp] theorem note_n (h : Bool) (w : Violation) (s : State) : (note h w s).n = s.n := by unfold note; split <;> rfl
@[simp] theorem note_v (h : Bool) (w : Violation) (s : State) : (note h w s).v = s.v := by unfold note; split <;> rfl
@[simp] theorem note_idleIdx (h : Bool) (w : Violation) (s : State) : (note h w s).idleIdx = s.idleIdx := by unfold note; split <;> rfl
@[simp] theorem note_tapIdx (h : Bool) (w : Violation) (s : State) : (note h w s).tapIdx = s.tapIdx := by unfold note; split <;> rfl
@[simp] theorem note_lastTick (h : Bool) (w : Violation) (s : State) : (note h w s).lastTick = s.lastTick := by unfold note; split <;> rfl
@[simp] theorem note_lastWpm (h : Bool) (w : Violation) (s : State) : (note h w s).lastWpm = s.lastWpm := by unfold note; split <;> rfl
@[simp] theorem note_activityTs (h : Bool) (w : Violation) (s : State) : (note h w s).activityTs = s.activityTs := by unfold note; split <;> rfl
@[simp] theorem note_canvas (h : Bool) (w : Violation) (s : State) : (note h w s).canvas = s.canvas := by unfold note; split <;> rfl
@[simp] theorem note_phase (h : Bool) (w : Violation) (s : State) : (note h w s).phase = s.phase := by unfold note; split <;> rfl
@[simp] theorem note_hostOps (h : Bool) (w : Violation) (s : State) : (note h w s).hostOps = s.hostOps := by unfold note; split <;> rfl
@[simp] theorem note_trace (h : Bool) (w : Violation) (s : State) : (note h w s).trace = s.trace := by unfold note; split <;> rfl
@[simp] theorem note_hostCalls (h : Bool) (w : Violation) (s : State) : (note h w s).hostCalls = s.hostCalls := by unfold note; split <;> rfl
@[simp] theorem note_draws (h : Bool) (w : Violation) (s : State) : (note h w s).draws = s.draws := by unfold note; split <;> rfl

@[simp] theorem readNext_params (b : Byte) (s : State) : (readNext b s).params = s.params := by simp [readNext]
@[simp] theorem readNext_base (b : Byte) (s : State) : (readNext b s).base = s.base := by simp [readNext]
@[simp] theorem readNext_L (b : Byte) (s : State) : (readNext b s).L = s.L := by simp [readNext]
@[simp] theorem readNext_cursor (b : Byte) (s : State) : (readNext b s).cursor = s.cursor := by simp [readNext]
@[simp] theorem readNext_c (b : Byte) (s : State) : (readNext b s).c = s.c := by simp [readNext]
@[simp] theorem readNext_n (b : Byte) (s : State) : (readNext b s).n = s.n := by simp [readNext]
@[simp] theorem readNext_v (b : Byte) (s : State) : (readNext b s).v = s.v := by simp [readNext]
@[simp] theorem readNext_idleIdx (b : Byte) (s : State) : (readNext b s).idleIdx = s.idleIdx := by simp [readNext]
@[simp] theorem readNext_tapIdx (b : Byte) (s : State) : (readNext b s).tapIdx = s.tapIdx := by simp [readNext]
@[simp] theorem readNext_lastTick (b : Byte) (s : State) : (readNext b s).lastTick = s.lastTick := by simp [readNext]
@[simp] theorem readNext_lastWpm (b : Byte) (s : State) : (readNext b s).lastWpm = s.lastWpm := by simp [readNext]
@[simp] theorem readNext_activityTs (b : Byte) (s : State) : (readNext b s).activityTs = s.activityTs := by simp [readNext]
@[simp] theorem readNext_canvas (b : Byte) (s : State) : (readNext b s).canvas = s.canvas := by simp [readNext]
@[simp] theorem readNext_phase (b : Byte) (s : State) : (readNext b s).phase = s.phase := by simp [readNext]
@[simp] theorem readNext_hostOps (b : Byte) (s : State) : (readNext b s).hostOps = s.hostOps := by simp [readNext]
@[simp] theorem readNext_hostCalls (b : Byte) (s : State) : (readNext b s).hostCalls = s.hostCalls := by simp [readNext]

@[simp] theorem fetchControl_params (c : Byte) (s : State) : (fetchControl c s).params = s.params := by simp [fetchControl]
@[simp] theorem fetchControl_base (c : Byte) (s : State) : (fetchControl c s).base = s.base := by simp [fetchControl]
@[simp] theorem fetchControl_L (c : Byte) (s : State) : (fetchControl c s).L = s.L := by simp [fetchControl]
@[simp] theorem fetchControl_cursor (c : Byte) (s : State) : (fetchControl c s).cursor = s.cursor := by simp [fetchControl]
@[simp] theorem fetchControl_n (c : Byte) (s : State) : (fetchControl c s).n = s.n := by simp [fetchControl]
@[simp] theorem fetchControl_v (c : Byte) (s : State) : (fetchControl c s).v = s.v := by simp [fetchControl]
@[simp] theorem fetchControl_idleIdx (c : Byte) (s : State) : (fetchControl c s).idleIdx = s.idleIdx := by simp [fetchControl]
@[simp] theorem fetchControl_tapIdx (c : Byte) (s : State) : (fetchControl c s).tapIdx = s.tapIdx := by simp [fetchControl]
@[simp] theorem fetchControl_lastTick (c : Byte) (s : State) : (fetchControl c s).lastTick = s.lastTick := by simp [fetchControl]
@[simp] theorem fetchControl_lastWpm (c : Byte) (s : State) : (fetchControl c s).lastWpm = s.lastWpm := by simp [fetchControl]
@[simp] theorem fetchControl_activityTs (c : Byte) (s : State) : (fetchControl c s).activityTs = s.activityTs := by simp [fetchControl]
@[simp] theorem fetchControl_canvas (c : Byte) (s : State) : (fetchControl c s).canvas = s.canvas := by simp [fetchControl]
@[simp] theorem fetchControl_phase (c : Byte) (s : State) : (fetchControl c s).phase = s.phase := by simp [fetchControl]
@[simp] theorem fetchControl_hostOps (c : Byte) (s : State) : (fetchControl c s).hostOps = s.hostOps := by simp [fetchControl]
@[simp] theorem fetchControl_hostCalls (c : Byte) (s : State) : (fetchControl c s).hostCalls = s.hostCalls := by simp [fetchControl]

@[simp] theorem startDecode_params (b : Nat) (s : State) : (startDecode b s).params = s.params := rfl
@[simp] theorem startDecode_L (b : Nat) (s : State) : (startDecode b s).L = s.L := rfl
@[simp] theorem startDecode_i (b : Nat) (s : State) : (startDecode b s).i = s.i := rfl
@[simp] theorem startDecode_cursor (b : Nat) (s : State) : (startDecode b s).cursor = s.cursor := rfl
@[simp] theorem startDecode_c (b : Nat) (s : State) : (startDecode b s).c = s.c := rfl
@[simp] theorem startDecode_n (b : Nat) (s : State) : (startDecode b s).n = s.n := rfl
@[simp] theorem startDecode_v (b : Nat) (s : State) : (startDecode b s).v = s.v := rfl
@[simp] theorem startDecode_idleIdx (b : Nat) (s : State) : (startDecode b s).idleIdx = s.idleIdx := rfl
@[simp] theorem startDecode_tapIdx (b : Nat) (s : State) : (startDecode b s).tapIdx = s.tapIdx := rfl
@[simp] theorem startDecode_lastTick (b : Nat) (s : State) : (startDecode b s).lastTick = s.lastTick := rfl
@[simp] theorem startDecode_lastWpm (b : Nat) (s : State) : (startDecode b s).lastWpm = s.lastWpm := rfl
@[simp] theorem startDecode_activityTs (b : Nat) (s : State) : (startDecode b s).activityTs = s.activityTs := rfl
@[simp] theorem startDecode_canvas (b : Nat) (s : State) : (startDecode b s).canvas = s.canvas := rfl
@[simp] theorem startDecode_hostOps (b : Nat) (s : State) : (startDecode b s).hostOps = s.hostOps := rfl
@[simp] theorem startDecode_trace (b : Nat) (s : State) : (startDecode b s).trace = s.trace := rfl
@[simp] theorem startDecode_hostCalls (b : Nat) (s : State) : (startDecode b s).hostCalls = s.hostCalls := rfl
@[simp] theorem startDecode_draws (b : Nat) (s : State) : (startDecode b s).draws = s.draws := rfl

@[simp] theorem returnFromRender_params (s : State) : (returnFromRender s).params = s.params := rfl
@[simp] theorem returnFromRender_base (s : State) : (returnFromRender s).base = s.base := rfl
@[simp] theorem returnFromRender_L (s : State) : (returnFromRender s).L = s.L := rfl
@[simp] theorem returnFromRender_i (s : State) : (returnFromRender s).i = s.i := rfl
@[simp] theorem returnFromRender_cursor (s : State) : (returnFromRender s).cursor = s.cursor := rfl
@[simp] theorem returnFromRender_c (s : State) : (returnFromRender s).c = s.c := rfl
@[simp] theorem returnFromRender_n (s : State) : (returnFromRender s).n = s.n := rfl
@[simp] theorem returnFromRender_v (s : State) : (returnFromRender s).v = s.v := rfl
@[simp] theorem returnFromRender_idleIdx (s : State) : (returnFromRender s).idleIdx = s.idleIdx := rfl
@[simp] theorem returnFromRender_tapIdx (s : State) : (returnFromRender s).tapIdx = s.tapIdx := rfl
@[simp] theorem returnFromRender_lastTick (s : State) : (returnFromRender s).lastTick = s.lastTick := rfl
@[simp] theorem returnFromRender_lastWpm (s : State) : (returnFromRender s).lastWpm = s.lastWpm := rfl
@[simp] theorem returnFromRender_activityTs (s : State) : (returnFromRender s).activityTs = s.activityTs := rfl
@[simp] theorem returnFromRender_canvas (s : State) : (returnFromRender s).canvas = s.canvas := rfl
@[simp] theorem returnFromRender_hostOps (s : State) : (returnFromRender s).hostOps = s.hostOps := rfl
@[simp] theorem returnFromRender_trace (s : State) : (returnFromRender s).trace = s.trace := rfl
@[simp] theorem returnFromRender_violation (s : State) : (returnFromRender s).violation = s.violation := rfl
@[simp] theorem returnFromRender_draws (s : State) : (returnFromRender s).draws = s.draws := rfl

@[simp] theorem finishDecode_params (s : State) : (finishDecode s).params = s.params := by simp [finishDecode]
@[simp] theorem finishDecode_base (s : State) : (finishDecode s).base = s.base := by simp [finishDecode]
@[simp] theorem finishDecode_L (s : State) : (finishDecode s).L = s.L := by simp [finishDecode]
@[simp] theorem finishDecode_i (s : State) : (finishDecode s).i = s.i := by simp [finishDecode]
@[simp] theorem finishDecode_cursor (s : State) : (finishDecode s).cursor = s.cursor := by simp [finishDecode]
@[simp] theorem finishDecode_c (s : State) : (finishDecode s).c = s.c := by simp [finishDecode]
@[simp] theorem finishDecode_n (s : State) : (finishDecode s).n = s.n := by simp [finishDecode]
@[simp] theorem finishDecode_v (s : State) : (finishDecode s).v = s.v := by simp [finishDecode]
@[simp] theorem finishDecode_idleIdx (s : State) : (finishDecode s).idleIdx = s.idleIdx := by simp [finishDecode]
@[simp] theorem finishDecode_tapIdx (s : State) : (finishDecode s).tapIdx = s.tapIdx := by simp [finishDecode]
@[simp] theorem finishDecode_lastTick (s : State) : (finishDecode s).lastTick = s.lastTick := by simp [finishDecode]
@[simp] theorem finishDecode_lastWpm (s : State) : (finishDecode s).lastWpm = s.lastWpm := by simp [finishDecode]
@[simp] theorem finishDecode_activityTs (s : State) : (finishDecode s).activityTs = s.activityTs := by simp [finishDecode]
@[simp] theorem finishDecode_canvas (s : State) : (finishDecode s).canvas = s.canvas := by simp [finishDecode]
@[simp] theorem finishDecode_hostOps (s : State) : (finishDecode s).hostOps = s.hostOps := by simp [finishDecode]
@[simp] theorem finishDecode_trace (s : State) : (finishDecode s).trace = s.trace := by simp [finishDecode]
@[simp] theorem finishDecode_draws (s : State) : (finishDecode s).draws = s.draws := by simp [finishDecode]

@[simp] theorem decodeFrame_params (p : Pose) (k : Nat) (s : State) : (decodeFrame p k s).params = s.params := rfl
@[simp] theorem decodeFrame_L (p : Pose) (k : Nat) (s : State) : (decodeFrame p k s).L = s.L := rfl
@[simp] theorem decodeFrame_i (p : Pose) (k : Nat) (s : State) : (decodeFrame p k s).i = s.i := rfl
@[simp] theorem decodeFrame_cursor (p : Pose) (k : Nat) (s : State) : (decodeFrame p k s).cursor = s.cursor := rfl
@[simp] theorem decodeFrame_c (p : Pose) (k : Nat) (s : State) : (decodeFrame p k s).c = s.c := rfl
@[simp] theorem decodeFrame_n (p : Pose) (k : Nat) (s : State) : (decodeFrame p k s).n = s.n := rfl
@[simp] theorem decodeFrame_v (p : Pose) (k : Nat) (s : State) : (decodeFrame p k s).v = s.v := rfl
@[simp] theorem decodeFrame_idleIdx (p : Pose) (k : Nat) (s : State) : (decodeFrame p k s).idleIdx = s.idleIdx := rfl
@[simp] theorem decodeFrame_tapIdx (p : Pose) (k : Nat) (s : State) : (decodeFrame p k s).tapIdx = s.tapIdx := rfl
@[simp] theorem decodeFrame_lastTick (p : Pose) (k : Nat) (s : State) : (decodeFrame p k s).lastTick = s.lastTick := rfl
@[simp] theorem decodeFrame_lastWpm (p : Pose) (k : Nat) (s : State) : (decodeFrame p k s).lastWpm = s.lastWpm := rfl
@[simp] theorem decodeFrame_activityTs (p : Pose) (k : Nat) (s : State) : (decodeFrame p k s).activityTs = s.activityTs := rfl
@[simp] theorem decodeFrame_canvas (p : Pose) (k : Nat) (s : State) : (decodeFrame p k s).canvas = s.canvas := rfl
@[simp] theorem decodeFrame_hostOps (p : Pose) (k : Nat) (s : State) : (decodeFrame p k s).hostOps = s.hostOps := rfl
@[simp] theorem decodeFrame_trace (p : Pose) (k : Nat) (s : State) : (decodeFrame p k s).trace = s.trace := rfl
@[simp] theorem decodeFrame_hostCalls (p : Pose) (k : Nat) (s : State) : (decodeFrame p k s).hostCalls = s.hostCalls := rfl
@[simp] theorem decodeFrame_draws (p : Pose) (k : Nat) (s : State) : (decodeFrame p k s).draws = s.draws := rfl

@[simp] theorem recordTick_params (now : Nat) (s : State) : (recordTick now s).params = s.params := rfl
@[simp] theorem recordTick_base (now : Nat) (s : State) : (recordTick now s).base = s.base := rfl
@[simp] theorem recordTick_L (now : Nat) (s : State) : (recordTick now s).L = s.L := rfl
@[simp] theorem recordTick_i (now : Nat) (s : State) : (recordTick now s).i = s.i := rfl
@[simp] theorem recordTick_cursor (now : Nat) (s : State) : (recordTick now s).cursor = s.cursor := rfl
@[simp] theorem recordTick_c (now : Nat) (s : State) : (recordTick now s).c = s.c := rfl
@[simp] theorem recordTick_n (now : Nat) (s : State) : (recordTick now s).n = s.n := rfl
@[simp] theorem recordTick_v (now : Nat) (s : State) : (recordTick now s).v = s.v := rfl
@[simp] theorem recordTick_idleIdx (now : Nat) (s : State) : (recordTick now s).idleIdx = s.idleIdx := rfl
@[simp] theorem recordTick_tapIdx (now : Nat) (s : State) : (recordTick now s).tapIdx = s.tapIdx := rfl
@[simp] theorem recordTick_lastWpm (now : Nat) (s : State) : (recordTick now s).lastWpm = s.lastWpm := rfl
@[simp] theorem recordTick_activityTs (now : Nat) (s : State) : (recordTick now s).activityTs = s.activityTs := rfl
@[simp] theorem recordTick_canvas (now : Nat) (s : State) : (recordTick now s).canvas = s.canvas := rfl
@[simp] theorem recordTick_phase (now : Nat) (s : State) : (recordTick now s).phase = s.phase := rfl
@[simp] theorem recordTick_hostOps (now : Nat) (s : State) : (recordTick now s).hostOps = s.hostOps := rfl
@[simp] theorem recordTick_trace (now : Nat) (s : State) : (recordTick now s).trace = s.trace := rfl
@[simp] theorem recordTick_hostCalls (now : Nat) (s : State) : (recordTick now s).hostCalls = s.hostCalls := rfl
@[simp] theorem recordTick_violation (now : Nat) (s : State) : (recordTick now s).violation = s.violation := rfl
@[simp] theorem recordTick_draws (now : Nat) (s : State) : (recordTick now s).draws = s.draws := rfl

@[simp] theorem takeWpmSample_params (now w : Nat) (s : State) : (takeWpmSample now w s).params = s.params := rfl
@[simp] theorem takeWpmSample_base (now w : Nat) (s : State) : (takeWpmSample now w s).base = s.base := rfl
@[simp] theorem takeWpmSample_L (now w : Nat) (s : State) : (takeWpmSample now w s).L = s.L := rfl
@[simp] theorem takeWpmSample_i (now w : Nat) (s : State) : (takeWpmSample now w s).i = s.i := rfl
@[simp] theorem takeWpmSample_cursor (now w : Nat) (s : State) : (takeWpmSample now w s).cursor = s.cursor := rfl
@[simp] theorem takeWpmSample_c (now w : Nat) (s : State) : (takeWpmSample now w s).c = s.c := rfl
@[simp] theorem takeWpmSample_n (now w : Nat) (s : State) : (takeWpmSample now w s).n = s.n := rfl
@[simp] theorem takeWpmSample_v (now w : Nat) (s : State) : (takeWpmSample now w s).v = s.v := rfl
@[simp] theorem takeWpmSample_idleIdx (now w : Nat) (s : State) : (takeWpmSample now w s).idleIdx = s.idleIdx := rfl
@[simp] theorem takeWpmSample_tapIdx (now w : Nat) (s : State) : (takeWpmSample now w s).tapIdx = s.tapIdx := rfl
@[simp] theorem takeWpmSample_lastTick (now w : Nat) (s : State) : (takeWpmSample now w s).lastTick = s.lastTick := rfl
@[simp] theorem takeWpmSample_canvas (now w : Nat) (s : State) : (takeWpmSample now w s).canvas = s.canvas := rfl
@[simp] theorem takeWpmSample_phase (now w : Nat) (s : State) : (takeWpmSample now w s).phase = s.phase := rfl
@[simp] theorem takeWpmSample_hostOps (now w : Nat) (s : State) : (takeWpmSample now w s).hostOps = s.hostOps := rfl
@[simp] theorem takeWpmSample_trace (now w : Nat) (s : State) : (takeWpmSample now w s).trace = s.trace := rfl
@[simp] theorem takeWpmSample_hostCalls (now w : Nat) (s : State) : (takeWpmSample now w s).hostCalls = s.hostCalls := rfl
@[simp] theorem takeWpmSample_violation (now w : Nat) (s : State) : (takeWpmSample now w s).violation = s.violation := rfl
@[simp] theorem takeWpmSample_draws (now w : Nat) (s : State) : (takeWpmSample now w s).draws = s.draws := rfl

@[simp] theorem activityStage_params (now w : Nat) (s : State) : (activityStage now w s).params = s.params := by unfold activityStage; split <;> rfl
@[simp] theorem activityStage_base (now w : Nat) (s : State) : (activityStage now w s).base = s.base := by unfold activityStage; split <;> rfl
@[simp] theorem activityStage_L (now w : Nat) (s : State) : (activityStage now w s).L = s.L := by unfold activityStage; split <;> rfl
@[simp] theorem activityStage_i (now w : Nat) (s : State) : (activityStage now w s).i = s.i := by unfold activityStage; split <;> rfl
@[simp] theorem activityStage_cursor (now w : Nat) (s : State) : (activityStage now w s).cursor = s.cursor := by unfold activityStage; split <;> rfl
@[simp] theorem activityStage_c (now w : Nat) (s : State) : (activityStage now w s).c = s.c := by unfold activityStage; split <;> rfl
@[simp] theorem activityStage_n (now w : Nat) (s : State) : (activityStage now w s).n = s.n := by unfold activityStage; split <;> rfl
@[simp] theorem activityStage_v (now w : Nat) (s : State) : (activityStage now w s).v = s.v := by unfold activityStage; split <;> rfl
@[simp] theorem activityStage_idleIdx (now w : Nat) (s : State) : (activityStage now w s).idleIdx = s.idleIdx := by unfold activityStage; split <;> rfl
@[simp] theorem activityStage_tapIdx (now w : Nat) (s : State) : (activityStage now w s).tapIdx = s.tapIdx := by unfold activityStage; split <;> rfl
@[simp] theorem activityStage_lastTick (now w : Nat) (s : State) : (activityStage now w s).lastTick = s.lastTick := by unfold activityStage; split <;> rfl
@[simp] theorem activityStage_canvas (now w : Nat) (s : State) : (activityStage now w s).canvas = s.canvas := by unfold activityStage; split <;> rfl
@[simp] theorem activityStage_phase (now w : Nat) (s : State) : (activityStage now w s).phase = s.phase := by unfold activityStage; split <;> rfl
@[simp] theorem activityStage_hostOps (now w : Nat) (s : State) : (activityStage now w s).hostOps = s.hostOps := by unfold activityStage; split <;> rfl
@[simp] theorem activityStage_trace (now w : Nat) (s : State) : (activityStage now w s).trace = s.trace := by unfold activityStage; split <;> rfl
@[simp] theorem activityStage_hostCalls (now w : Nat) (s : State) : (activityStage now w s).hostCalls = s.hostCalls := by unfold activityStage; split <;> rfl
@[simp] theorem activityStage_violation (now w : Nat) (s : State) : (activityStage now w s).violation = s.violation := by unfold activityStage; split <;> rfl
@[simp] theorem activityStage_draws (now w : Nat) (s : State) : (activityStage now w s).draws = s.draws := by unfold activityStage; split <;> rfl

@[simp] theorem powerOff_params (s : State) : (powerOff s).params = s.params := rfl
@[simp] theorem powerOff_base (s : State) : (powerOff s).base = s.base := rfl
@[simp] theorem powerOff_L (s : State) : (powerOff s).L = s.L := rfl
@[simp] theorem powerOff_i (s : State) : (powerOff s).i = s.i := rfl
@[simp] theorem powerOff_cursor (s : State) : (powerOff s).cursor = s.cursor := rfl
@[simp] theorem powerOff_c (s : State) : (powerOff s).c = s.c := rfl
@[simp] theorem powerOff_n (s : State) : (powerOff s).n = s.n := rfl
@[simp] theorem powerOff_v (s : State) : (powerOff s).v = s.v := rfl
@[simp] theorem powerOff_idleIdx (s : State) : (powerOff s).idleIdx = s.idleIdx := rfl
@[simp] theorem powerOff_tapIdx (s : State) : (powerOff s).tapIdx = s.tapIdx := rfl
@[simp] theorem powerOff_lastTick (s : State) : (powerOff s).lastTick = s.lastTick := rfl
@[simp] theorem powerOff_lastWpm (s : State) : (powerOff s).lastWpm = s.lastWpm := rfl
@[simp] theorem powerOff_activityTs (s : State) : (powerOff s).activityTs = s.activityTs := rfl
@[simp] theorem powerOff_canvas (s : State) : (powerOff s).canvas = s.canvas := rfl
@[simp] theorem powerOff_hostOps (s : State) : (powerOff s).hostOps = s.hostOps := rfl
@[simp] theorem powerOff_trace (s : State) : (powerOff s).trace = s.trace := rfl
@[simp] theorem powerOff_violation (s : State) : (powerOff s).violation = s.violation := rfl
@[simp] theorem powerOff_draws (s : State) : (powerOff s).draws = s.draws := rfl

@[simp] theorem tickTap_params (s : State) : (tickTap s).params = s.params := rfl
@[simp] theorem tickTap_L (s : State) : (tickTap s).L = s.L := rfl
@[simp] theorem tickTap_i (s : State) : (tickTap s).i = s.i := rfl
@[simp] theorem tickTap_cursor (s : State) : (tickTap s).cursor = s.cursor := rfl
@[simp] theorem tickTap_c (s : State) : (tickTap s).c = s.c := rfl
@[simp] theorem tickTap_n (s : State) : (tickTap s).n = s.n := rfl
@[simp] theorem tickTap_v (s : State) : (tickTap s).v = s.v := rfl
@[simp] theorem tickTap_idleIdx (s : State) : (tickTap s).idleIdx = s.idleIdx := rfl
@[simp] theorem tickTap_lastTick (s : State) : (tickTap s).lastTick = s.lastTick := rfl
@[simp] theorem tickTap_lastWpm (s : State) : (tickTap s).lastWpm = s.lastWpm := rfl
@[simp] theorem tickTap_activityTs (s : State) : (tickTap s).activityTs = s.activityTs := rfl
@[simp] theorem tickTap_canvas (s : State) : (tickTap s).canvas = s.canvas := rfl
@[simp] theorem tickTap_hostOps (s : State) : (tickTap s).hostOps = s.hostOps := rfl
@[simp] theorem tickTap_trace (s : State) : (tickTap s).trace = s.trace := rfl
@[simp] theorem tickTap_hostCalls (s : State) : (tickTap s).hostCalls = s.hostCalls := rfl
@[simp] theorem tickTap_draws (s : State) : (tickTap s).draws = s.draws := rfl

@[simp] theorem tickCooldown_params (s : State) : (tickCooldown s).params = s.params := rfl
@[simp] theorem tickCooldown_L (s : State) : (tickCooldown s).L = s.L := rfl
@[simp] theorem tickCooldown_i (s : State) : (tickCooldown s).i = s.i := rfl
@[simp] theorem tickCooldown_cursor (s : State) : (tickCooldown s).cursor = s.cursor := rfl
@[simp] theorem tickCooldown_c (s : State) : (tickCooldown s).c = s.c := rfl
@[simp] theorem tickCooldown_n (s : State) : (tickCooldown s).n = s.n := rfl
@[simp] theorem tickCooldown_v (s : State) : (tickCooldown s).v = s.v := rfl
@[simp] theorem tickCooldown_idleIdx (s : State) : (tickCooldown s).idleIdx = s.idleIdx := rfl
@[simp] theorem tickCooldown_tapIdx (s : State) : (tickCooldown s).tapIdx = s.tapIdx := rfl
@[simp] theorem tickCooldown_lastTick (s : State) : (tickCooldown s).lastTick = s.lastTick := rfl
@[simp] theorem tickCooldown_lastWpm (s : State) : (tickCooldown s).lastWpm = s.lastWpm := rfl
@[simp] theorem tickCooldown_activityTs (s : State) : (tickCooldown s).activityTs = s.activityTs := rfl
@[simp] theorem tickCooldown_canvas (s : State) : (tickCooldown s).canvas = s.canvas := rfl
@[simp] theorem tickCooldown_hostOps (s : State) : (tickCooldown s).hostOps = s.hostOps := rfl
@[simp] theorem tickCooldown_trace (s : State) : (tickCooldown s).trace = s.trace := rfl
@[simp] theorem tickCooldown_hostCalls (s : State) : (tickCooldown s).hostCalls = s.hostCalls := rfl
@[simp] theorem tickCooldown_draws (s : State) : (tickCooldown s).draws = s.draws := rfl

@[simp] theorem tickIdle_params (s : State) : (tickIdle s).params = s.params := rfl
@[simp] theorem tickIdle_L (s : State) : (tickIdle s).L = s.L := rfl
@[simp] theorem tickIdle_i (s : State) : (tickIdle s).i = s.i := rfl
@[simp] theorem tickIdle_cursor (s : State) : (tickIdle s).cursor = s.cursor := rfl
@[simp] theorem tickIdle_c (s : State) : (tickIdle s).c = s.c := rfl
@[simp] theorem tickIdle_n (s : State) : (tickIdle s).n = s.n := rfl
@[simp] theorem tickIdle_v (s : State) : (tickIdle s).v = s.v := rfl
@[simp] theorem tickIdle_tapIdx (s : State) : (tickIdle s).tapIdx = s.tapIdx := rfl
@[simp] theorem tickIdle_lastTick (s : State) : (tickIdle s).lastTick = s.lastTick := rfl
@[simp] theorem tickIdle_lastWpm (s : State) : (tickIdle s).lastWpm = s.lastWpm := rfl
@[simp] theorem tickIdle_activityTs (s : State) : (tickIdle s).activityTs = s.activityTs := rfl
@[simp] theorem tickIdle_canvas (s : State) : (tickIdle s).canvas = s.canvas := rfl
@[simp] theorem tickIdle_hostOps (s : State) : (tickIdle s).hostOps = s.hostOps := rfl
@[simp] theorem tickIdle_trace (s : State) : (tickIdle s).trace = s.trace := rfl
@[simp] theorem tickIdle_hostCalls (s : State) : (tickIdle s).hostCalls = s.hostCalls := rfl
@[simp] theorem tickIdle_draws (s : State) : (tickIdle s).draws = s.draws := rfl

@[simp] theorem note_violation (h : Bool) (w : Violation) (s : State) :
    (note h w s).violation = s.violation.or (if h then some w else none) := by
  unfold note
  cases h <;> cases hv : s.violation <;> simp [hv]

@[simp] theorem readNext_trace (b : Byte) (s : State) : (readNext b s).trace = s.trace ++ [.fr s.i b] := rfl
@[simp] theorem readNext_i (b : Byte) (s : State) : (readNext b s).i = s.i + 1 := rfl
@[simp] theorem readNext_violation (b : Byte) (s : State) :
    (readNext b s).violation = s.violation.or (if pastEnd s then some .overread else none) := by
  simp [readNext]
@[simp] theorem readNext_draws (b : Byte) (s : State) :
    (readNext b s).draws = s.draws + (if outsideStore s s.i.toNat then 1 else 0) := by
  simp only [readNext]; split <;> rfl

@[simp] theorem fetchControl_trace (c : Byte) (s : State) : (fetchControl c s).trace = s.trace ++ [.fr s.i c] := rfl
@[simp] theorem fetchControl_i (c : Byte) (s : State) : (fetchControl c s).i = s.i + 1 := rfl
@[simp] theorem fetchControl_c (c : Byte) (s : State) : (fetchControl c s).c = c := rfl
@[simp] theorem fetchControl_violation (c : Byte) (s : State) :
    (fetchControl c s).violation = s.violation.or (if pastEnd s then some .overread else none) := by
  simp [fetchControl]
@[simp] theorem fetchControl_draws (c : Byte) (s : State) :
    (fetchControl c s).draws = s.draws + (if outsideStore s s.i.toNat then 1 else 0) := by
  simp [fetchControl]

@[simp] theorem startDecode_base (b : Nat) (s : State) : (startDecode b s).base = b % 2 ^ s.params.aw := rfl
@[simp] theorem startDecode_phase (b : Nat) (s : State) : (startDecode b s).phase = .header := rfl
@[simp] theorem startDecode_violation (b : Nat) (s : State) : (startDecode b s).violation = none := rfl

@[simp] theorem returnFromRender_phase (s : State) : (returnFromRender s).phase = .idle := rfl
@[simp] theorem returnFromRender_hostCalls (s : State) :
    (returnFromRender s).hostCalls = s.hostCalls ++ [.renderReturned s.params.renderRet] := rfl

@[simp] theorem finishDecode_phase (s : State) : (finishDecode s).phase = .idle := rfl
@[simp] theorem finishDecode_hostCalls (s : State) :
    (finishDecode s).hostCalls = s.hostCalls ++ [.renderReturned s.params.renderRet] := by
  simp [finishDecode]
@[simp] theorem finishDecode_violation (s : State) :
    (finishDecode s).violation = s.violation.or (if underfilled s then some .underfill else none) := by
  simp [finishDecode]


@[simp] theorem putByte_params (b : Byte) (s : State) : (putByte b s).params = s.params := rfl
@[simp] theorem putByte_base (b : Byte) (s : State) : (putByte b s).base = s.base := rfl
@[simp] theorem putByte_L (b : Byte) (s : State) : (putByte b s).L = s.L := rfl
@[simp] theorem putByte_i (b : Byte) (s : State) : (putByte b s).i = s.i := rfl
@[simp] theorem putByte_c (b : Byte) (s : State) : (putByte b s).c = s.c := rfl
@[simp] theorem putByte_n (b : Byte) (s : State) : (putByte b s).n = s.n := rfl
@[simp] theorem putByte_v (b : Byte) (s : State) : (putByte b s).v = s.v := rfl
@[simp] theorem putByte_idleIdx (b : Byte) (s : State) : (putByte b s).idleIdx = s.idleIdx := rfl
@[simp] theorem putByte_tapIdx (b : Byte) (s : State) : (putByte b s).tapIdx = s.tapIdx := rfl
@[simp] theorem putByte_lastTick (b : Byte) (s : State) : (putByte b s).lastTick = s.lastTick := rfl
@[simp] theorem putByte_lastWpm (b : Byte) (s : State) : (putByte b s).lastWpm = s.lastWpm := rfl
@[simp] theorem putByte_activityTs (b : Byte) (s : State) : (putByte b s).activityTs = s.activityTs := rfl
@[simp] theorem putByte_phase (b : Byte) (s : State) : (putByte b s).phase = s.phase := rfl
@[simp] theorem putByte_hostOps (b : Byte) (s : State) : (putByte b s).hostOps = s.hostOps := rfl
@[simp] theorem putByte_hostCalls (b : Byte) (s : State) : (putByte b s).hostCalls = s.hostCalls := rfl
@[simp] theorem putByte_violation (b : Byte) (s : State) : (putByte b s).violation = s.violation := rfl
@[simp] theorem putByte_draws (b : Byte) (s : State) : (putByte b s).draws = s.draws := rfl

@[simp] theorem readValue_params (b : Byte) (s : State) : (readValue b s).params = s.params := by simp [readValue]
@[simp] theorem readValue_base (b : Byte) (s : State) : (readValue b s).base = s.base := by simp [readValue]
@[simp] theorem readValue_L (b : Byte) (s : State) : (readValue b s).L = s.L := by simp [readValue]
@[simp] theorem readValue_cursor (b : Byte) (s : State) : (readValue b s).cursor = s.cursor := by simp [readValue]
@[simp] theorem readValue_c (b : Byte) (s : State) : (readValue b s).c = s.c := by simp [readValue]
@[simp] theorem readValue_n (b : Byte) (s : State) : (readValue b s).n = s.n := by simp [readValue]
@[simp] theorem readValue_idleIdx (b : Byte) (s : State) : (readValue b s).idleIdx = s.idleIdx := by simp [readValue]
@[simp] theorem readValue_tapIdx (b : Byte) (s : State) : (readValue b s).tapIdx = s.tapIdx := by simp [readValue]
@[simp] theorem readValue_lastTick (b : Byte) (s : State) : (readValue b s).lastTick = s.lastTick := by simp [readValue]
@[simp] theorem readValue_lastWpm (b : Byte) (s : State) : (readValue b s).lastWpm = s.lastWpm := by simp [readValue]
@[simp] theorem readValue_activityTs (b : Byte) (s : State) : (readValue b s).activityTs = s.activityTs := by simp [readValue]
@[simp] theorem readValue_canvas (b : Byte) (s : State) : (readValue b s).canvas = s.canvas := by simp [readValue]
@[simp] theorem readValue_phase (b : Byte) (s : State) : (readValue b s).phase = s.phase := by simp [readValue]
@[simp] theorem readValue_hostOps (b : Byte) (s : State) : (readValue b s).hostOps = s.hostOps := by simp [readValue]
@[simp] theorem readValue_hostCalls (b : Byte) (s : State) : (readValue b s).hostCalls = s.hostCalls := by simp [readValue]

@[simp] theorem loadCount_params (k : Count) (s : State) : (loadCount k s).params = s.params := rfl
@[simp] theorem loadCount_base (k : Count) (s : State) : (loadCount k s).base = s.base := rfl
@[simp] theorem loadCount_L (k : Count) (s : State) : (loadCount k s).L = s.L := rfl
@[simp] theorem loadCount_i (k : Count) (s : State) : (loadCount k s).i = s.i := rfl
@[simp] theorem loadCount_cursor (k : Count) (s : State) : (loadCount k s).cursor = s.cursor := rfl
@[simp] theorem loadCount_c (k : Count) (s : State) : (loadCount k s).c = s.c := rfl
@[simp] theorem loadCount_v (k : Count) (s : State) : (loadCount k s).v = s.v := rfl
@[simp] theorem loadCount_idleIdx (k : Count) (s : State) : (loadCount k s).idleIdx = s.idleIdx := rfl
@[simp] theorem loadCount_tapIdx (k : Count) (s : State) : (loadCount k s).tapIdx = s.tapIdx := rfl
@[simp] theorem loadCount_lastTick (k : Count) (s : State) : (loadCount k s).lastTick = s.lastTick := rfl
@[simp] theorem loadCount_lastWpm (k : Count) (s : State) : (loadCount k s).lastWpm = s.lastWpm := rfl
@[simp] theorem loadCount_activityTs (k : Count) (s : State) : (loadCount k s).activityTs = s.activityTs := rfl
@[simp] theorem loadCount_canvas (k : Count) (s : State) : (loadCount k s).canvas = s.canvas := rfl
@[simp] theorem loadCount_phase (k : Count) (s : State) : (loadCount k s).phase = s.phase := rfl
@[simp] theorem loadCount_hostOps (k : Count) (s : State) : (loadCount k s).hostOps = s.hostOps := rfl
@[simp] theorem loadCount_trace (k : Count) (s : State) : (loadCount k s).trace = s.trace := rfl
@[simp] theorem loadCount_hostCalls (k : Count) (s : State) : (loadCount k s).hostCalls = s.hostCalls := rfl
@[simp] theorem loadCount_violation (k : Count) (s : State) : (loadCount k s).violation = s.violation := rfl
@[simp] theorem loadCount_draws (k : Count) (s : State) : (loadCount k s).draws = s.draws := rfl

@[simp] theorem putByte_trace (b : Byte) (s : State) : (putByte b s).trace = s.trace ++ [.sw b s.cursor] := rfl
@[simp] theorem putByte_cursor (b : Byte) (s : State) : (putByte b s).cursor = s.cursor + 1 := rfl
@[simp] theorem putByte_canvas (b : Byte) (s : State) :
    (putByte b s).canvas = Memory.write s.canvas s.cursor.toNat b := rfl

@[simp] theorem readValue_trace (b : Byte) (s : State) : (readValue b s).trace = s.trace ++ [.fr s.i b] := rfl
@[simp] theorem readValue_i (b : Byte) (s : State) : (readValue b s).i = s.i + 1 := rfl
@[simp] theorem readValue_v (b : Byte) (s : State) : (readValue b s).v = b := rfl
@[simp] theorem readValue_violation (b : Byte) (s : State) :
    (readValue b s).violation = s.violation.or (if pastEnd s then some .overread else none) := by
  simp [readValue]
@[simp] theorem readValue_draws (b : Byte) (s : State) :
    (readValue b s).draws = s.draws + (if outsideStore s s.i.toNat then 1 else 0) := by
  simp [readValue]

@[simp] theorem loadCount_n (k : Count) (s : State) : (loadCount k s).n = k := rfl


@[simp] theorem setHostOps_params (ops : List HostOp) (s : State) : (setHostOps ops s).params = s.params := rfl
@[simp] theorem setHostOps_base (ops : List HostOp) (s : State) : (setHostOps ops s).base = s.base := rfl
@[simp] theorem setHostOps_L (ops : List HostOp) (s : State) : (setHostOps ops s).L = s.L := rfl
@[simp] theorem setHostOps_i (ops : List HostOp) (s : State) : (setHostOps ops s).i = s.i := rfl
@[simp] theorem setHostOps_cursor (ops : List HostOp) (s : State) : (setHostOps ops s).cursor = s.cursor := rfl
@[simp] theorem setHostOps_c (ops : List HostOp) (s : State) : (setHostOps ops s).c = s.c := rfl
@[simp] theorem setHostOps_n (ops : List HostOp) (s : State) : (setHostOps ops s).n = s.n := rfl
@[simp] theorem setHostOps_v (ops : List HostOp) (s : State) : (setHostOps ops s).v = s.v := rfl
@[simp] theorem setHostOps_idleIdx (ops : List HostOp) (s : State) : (setHostOps ops s).idleIdx = s.idleIdx := rfl
@[simp] theorem setHostOps_tapIdx (ops : List HostOp) (s : State) : (setHostOps ops s).tapIdx = s.tapIdx := rfl
@[simp] theorem setHostOps_lastTick (ops : List HostOp) (s : State) : (setHostOps ops s).lastTick = s.lastTick := rfl
@[simp] theorem setHostOps_lastWpm (ops : List HostOp) (s : State) : (setHostOps ops s).lastWpm = s.lastWpm := rfl
@[simp] theorem setHostOps_activityTs (ops : List HostOp) (s : State) : (setHostOps ops s).activityTs = s.activityTs := rfl
@[simp] theorem setHostOps_canvas (ops : List HostOp) (s : State) : (setHostOps ops s).canvas = s.canvas := rfl
@[simp] theorem setHostOps_phase (ops : List HostOp) (s : State) : (setHostOps ops s).phase = s.phase := rfl
@[simp] theorem setHostOps_trace (ops : List HostOp) (s : State) : (setHostOps ops s).trace = s.trace := rfl
@[simp] theorem setHostOps_hostCalls (ops : List HostOp) (s : State) : (setHostOps ops s).hostCalls = s.hostCalls := rfl
@[simp] theorem setHostOps_violation (ops : List HostOp) (s : State) : (setHostOps ops s).violation = s.violation := rfl
@[simp] theorem setHostOps_draws (ops : List HostOp) (s : State) : (setHostOps ops s).draws = s.draws := rfl

@[simp] theorem activity_params (time : Nat) (s : State) : (activity time s).params = s.params := rfl
@[simp] theorem activity_base (time : Nat) (s : State) : (activity time s).base = s.base := rfl
@[simp] theorem activity_L (time : Nat) (s : State) : (activity time s).L = s.L := rfl
@[simp] theorem activity_i (time : Nat) (s : State) : (activity time s).i = s.i := rfl
@[simp] theorem activity_cursor (time : Nat) (s : State) : (activity time s).cursor = s.cursor := rfl
@[simp] theorem activity_c (time : Nat) (s : State) : (activity time s).c = s.c := rfl
@[simp] theorem activity_n (time : Nat) (s : State) : (activity time s).n = s.n := rfl
@[simp] theorem activity_v (time : Nat) (s : State) : (activity time s).v = s.v := rfl
@[simp] theorem activity_idleIdx (time : Nat) (s : State) : (activity time s).idleIdx = s.idleIdx := rfl
@[simp] theorem activity_tapIdx (time : Nat) (s : State) : (activity time s).tapIdx = s.tapIdx := rfl
@[simp] theorem activity_lastTick (time : Nat) (s : State) : (activity time s).lastTick = s.lastTick := rfl
@[simp] theorem activity_lastWpm (time : Nat) (s : State) : (activity time s).lastWpm = s.lastWpm := rfl
@[simp] theorem activity_canvas (time : Nat) (s : State) : (activity time s).canvas = s.canvas := rfl
@[simp] theorem activity_phase (time : Nat) (s : State) : (activity time s).phase = s.phase := rfl
@[simp] theorem activity_hostOps (time : Nat) (s : State) : (activity time s).hostOps = s.hostOps := rfl
@[simp] theorem activity_trace (time : Nat) (s : State) : (activity time s).trace = s.trace := rfl
@[simp] theorem activity_hostCalls (time : Nat) (s : State) : (activity time s).hostCalls = s.hostCalls := rfl
@[simp] theorem activity_violation (time : Nat) (s : State) : (activity time s).violation = s.violation := rfl
@[simp] theorem activity_draws (time : Nat) (s : State) : (activity time s).draws = s.draws := rfl

@[simp] theorem rotation_params (s : State) : (rotation s).params = s.params := rfl
@[simp] theorem rotation_base (s : State) : (rotation s).base = s.base := rfl
@[simp] theorem rotation_L (s : State) : (rotation s).L = s.L := rfl
@[simp] theorem rotation_i (s : State) : (rotation s).i = s.i := rfl
@[simp] theorem rotation_cursor (s : State) : (rotation s).cursor = s.cursor := rfl
@[simp] theorem rotation_c (s : State) : (rotation s).c = s.c := rfl
@[simp] theorem rotation_n (s : State) : (rotation s).n = s.n := rfl
@[simp] theorem rotation_v (s : State) : (rotation s).v = s.v := rfl
@[simp] theorem rotation_idleIdx (s : State) : (rotation s).idleIdx = s.idleIdx := rfl
@[simp] theorem rotation_tapIdx (s : State) : (rotation s).tapIdx = s.tapIdx := rfl
@[simp] theorem rotation_lastTick (s : State) : (rotation s).lastTick = s.lastTick := rfl
@[simp] theorem rotation_lastWpm (s : State) : (rotation s).lastWpm = s.lastWpm := rfl
@[simp] theorem rotation_activityTs (s : State) : (rotation s).activityTs = s.activityTs := rfl
@[simp] theorem rotation_canvas (s : State) : (rotation s).canvas = s.canvas := rfl
@[simp] theorem rotation_phase (s : State) : (rotation s).phase = s.phase := rfl
@[simp] theorem rotation_hostOps (s : State) : (rotation s).hostOps = s.hostOps := rfl
@[simp] theorem rotation_trace (s : State) : (rotation s).trace = s.trace := rfl
@[simp] theorem rotation_violation (s : State) : (rotation s).violation = s.violation := rfl
@[simp] theorem rotation_draws (s : State) : (rotation s).draws = s.draws := rfl

@[simp] theorem setHostOps_hostOps (ops : List HostOp) (s : State) : (setHostOps ops s).hostOps = ops := rfl
@[simp] theorem activity_activityTs (time : Nat) (s : State) :
    (activity time s).activityTs = timestamp s.params.tw time := rfl
@[simp] theorem rotation_hostCalls (s : State) : (rotation s).hostCalls =
    s.hostCalls ++ [.rotationReturned (Config.rotation s.params.side s.params.role)] := rfl

@[simp] theorem decodeFrame_base (p : Pose) (k : Nat) (s : State) :
    (decodeFrame p k s).base = frameTable s.params s.params.side p k % 2 ^ s.params.aw := rfl
@[simp] theorem decodeFrame_phase (p : Pose) (k : Nat) (s : State) : (decodeFrame p k s).phase = .header := rfl
@[simp] theorem decodeFrame_violation (p : Pose) (k : Nat) (s : State) : (decodeFrame p k s).violation = none := rfl

@[simp] theorem recordTick_lastTick (now : Nat) (s : State) : (recordTick now s).lastTick = now := rfl

@[simp] theorem takeWpmSample_activityTs (now w : Nat) (s : State) : (takeWpmSample now w s).activityTs =
    if wpmIncreased s (wpmSample s.params w) then now else s.activityTs := rfl
@[simp] theorem takeWpmSample_lastWpm (now w : Nat) (s : State) :
    (takeWpmSample now w s).lastWpm = wpmSample s.params w := rfl

@[simp] theorem powerOff_phase (s : State) : (powerOff s).phase = .idle := rfl
@[simp] theorem powerOff_hostCalls (s : State) :
    (powerOff s).hostCalls = s.hostCalls ++ [.displayOff, .renderReturned s.params.renderRet] := by
  simp [powerOff]

@[simp] theorem tickTap_phase (s : State) : (tickTap s).phase = .header := rfl
@[simp] theorem tickTap_violation (s : State) : (tickTap s).violation = none := rfl
@[simp] theorem tickTap_tapIdx (s : State) : (tickTap s).tapIdx = nextTapIdx s := rfl
@[simp] theorem tickTap_base (s : State) :
    (tickTap s).base = frameTable s.params s.params.side .tap (nextTapIdx s).toNat % 2 ^ s.params.aw := rfl

@[simp] theorem tickCooldown_phase (s : State) : (tickCooldown s).phase = .header := rfl
@[simp] theorem tickCooldown_violation (s : State) : (tickCooldown s).violation = none := rfl
@[simp] theorem tickCooldown_base (s : State) :
    (tickCooldown s).base = frameTable s.params s.params.side .paws 0 % 2 ^ s.params.aw := rfl

@[simp] theorem tickIdle_phase (s : State) : (tickIdle s).phase = .header := rfl
@[simp] theorem tickIdle_violation (s : State) : (tickIdle s).violation = none := rfl
@[simp] theorem tickIdle_idleIdx (s : State) : (tickIdle s).idleIdx = nextIdleIdx s := rfl
@[simp] theorem tickIdle_base (s : State) :
    (tickIdle s).base = frameTable s.params s.params.side .idle (nextIdleIdx s).toNat % 2 ^ s.params.aw := rfl

end Sys2Proof.Machine
end

