-- ==== Sys2Proof/Laws/Ops.lean ====
section
/-!
SUPPORT. What each shared operation of the Decoder can do, said once: the provers cite these and do not unfold the
operations.
-/

namespace Sys2Proof.Machine

@[simp] theorem andThen_next (s : State) (k : State → Result) : andThen (.next s) k = k s := rfl
@[simp] theorem andThen_fault (f : Fault) (k : State → Result) : andThen (.fault f) k = .fault f := rfl
@[simp] theorem andThen_refused (q : Refusal) (k : State → Result) : andThen (.refused q) k = .refused q := rfl

/-- The loop test on naturals. -/
theorem loopContinues_iff (s : State) : loopContinues s = true ↔ s.i.toNat < s.L.toNat := by
  unfold loopContinues
  rw [BitVec.ult_eq_decide, decide_eq_true_iff, BitVec.toNat_setWidth_of_le (by decide)]

/-- A read is past the end when the loop test fails. -/
theorem pastEnd_eq (s : State) : pastEnd s = decide (s.L.toNat ≤ s.i.toNat) := by
  unfold pastEnd
  rcases h : loopContinues s with _ | _
  · have : ¬ s.i.toNat < s.L.toNat := by rw [← loopContinues_iff, h]; decide
    simp; omega
  · have := (loopContinues_iff s).1 h
    simp; omega

/-- `SinkWrite` on the canvas. -/
theorem sinkWrite_next (v : Byte) (s : State) (h : s.cursor.toNat < s.params.canvasBytes) :
    sinkWrite v s = .next (putByte v s) := by
  have : offCanvas s = false := by unfold offCanvas; exact decide_eq_false (by omega)
  simp [sinkWrite, this]

/-- `SinkWrite` beyond the canvas. -/
theorem sinkWrite_fault (v : Byte) (s : State) (h : s.params.canvasBytes ≤ s.cursor.toNat) :
    sinkWrite v s = .fault (.overrun (s.trace ++ [.sw v s.cursor]) (s.violation.getD .overrun)) := by
  have : offCanvas s = true := by unfold offCanvas; exact decide_eq_true h
  simp [sinkWrite, firstViolation, this]

/-- Everything `SinkWrite` can do. -/
theorem sinkWrite_cases (v : Byte) (s : State) :
    (s.cursor.toNat < s.params.canvasBytes ∧ sinkWrite v s = .next (putByte v s)) ∨
    (s.params.canvasBytes ≤ s.cursor.toNat ∧
      sinkWrite v s = .fault (.overrun (s.trace ++ [.sw v s.cursor]) (s.violation.getD .overrun))) := by
  rcases Nat.lt_or_ge s.cursor.toNat s.params.canvasBytes with h | h
  · exact .inl ⟨h, sinkWrite_next v s h⟩
  · exact .inr ⟨h, sinkWrite_fault v s h⟩

/-- The registers and records a copy or fill loop of a segment keeps. -/
structure LoopSame (s t : State) : Prop extends SelectorSame s t where
  L : t.L = s.L
  c : t.c = s.c
  n : t.n = s.n
  phase : t.phase = s.phase

theorem LoopSame.refl (s : State) : LoopSame s s := ⟨⟨rfl, rfl, rfl, rfl, rfl, rfl, rfl, rfl, rfl⟩, rfl, rfl, rfl, rfl⟩

theorem SelectorSame.refl (s : State) : SelectorSame s s := ⟨rfl, rfl, rfl, rfl, rfl, rfl, rfl, rfl, rfl⟩

theorem SelectorSame.trans {s t u : State} (h : SelectorSame s t) (k : SelectorSame t u) : SelectorSame s u :=
  ⟨k.params.trans h.params, k.base.trans h.base, k.idleIdx.trans h.idleIdx, k.tapIdx.trans h.tapIdx,
    k.lastTick.trans h.lastTick, k.lastWpm.trans h.lastWpm, k.activityTs.trans h.activityTs,
    k.hostOps.trans h.hostOps, k.hostCalls.trans h.hostCalls⟩

theorem LoopSame.trans {s t u : State} (h : LoopSame s t) (k : LoopSame t u) : LoopSame s u :=
  ⟨h.toSelectorSame.trans k.toSelectorSame, k.L.trans h.L, k.c.trans h.c, k.n.trans h.n, k.phase.trans h.phase⟩

theorem putByte_same (v : Byte) (s : State) : LoopSame s (putByte v s) := by constructor <;> (try constructor) <;> simp

theorem readValue_same (v : Byte) (s : State) : LoopSame s (readValue v s) := by constructor <;> (try constructor) <;> simp

/-- The fill loop, all it can do: it writes every byte, or it stops at the first position beyond the canvas. -/
theorem repeatFill_cases (k : Nat) (v : Byte) (s : State) :
    (∃ t, repeatFill k v s = .next t ∧ LoopSame s t ∧ t.i = s.i ∧ t.v = s.v ∧ t.draws = s.draws ∧
        t.violation = s.violation ∧ t.cursor = s.cursor + BitVec.ofNat 16 k ∧
        t.trace = s.trace ++ fillEvents s.cursor v k) ∨
    (∃ j p, j < k ∧ s.params.canvasBytes ≤ p.toNat ∧
      repeatFill k v s =
        .fault (.overrun (s.trace ++ fillEvents s.cursor v j ++ [.sw v p]) (s.violation.getD .overrun))) := by
  induction k generalizing s with
  | zero => exact .inl ⟨s, rfl, .refl s, rfl, rfl, rfl, rfl, by simp, by simp [fillEvents]⟩
  | succ k ih =>
    rcases sinkWrite_cases v s with ⟨hlt, hw⟩ | ⟨hge, hw⟩
    · simp only [repeatFill, hw, andThen_next]
      rcases ih (putByte v s) with ⟨t, ht, hs, hi, hv, hd, hvi, hc, htr⟩ | ⟨j, p, hj, hp, hf⟩
      · refine .inl ⟨t, ht, (putByte_same v s).trans hs, by simpa using hi, by simpa using hv, by simpa using hd,
          by simpa using hvi, ?_, ?_⟩
        · rw [hc, putByte_cursor, Nat.add_comm k 1, BitVec.ofNat_add, ← BitVec.add_assoc]; rfl
        · rw [htr]; simp [fillEvents]
      · exact .inr ⟨j + 1, p, by omega, by simpa using hp, by rw [hf]; simp [fillEvents]⟩
    · exact .inr ⟨0, s.cursor, by omega, hge, by simp [repeatFill, hw, fillEvents]⟩

/-- The literal loop, all it can do: it copies every byte, or it stops at the first position beyond the canvas. -/
theorem copyLiterals_cases (bytes : List Byte) (s : State) :
    (∃ t, copyLiterals bytes s = .next t ∧ LoopSame s t ∧ t.i = s.i + BitVec.ofNat 9 bytes.length ∧
        t.v = bytes.getLast?.getD s.v ∧ t.cursor = s.cursor + BitVec.ofNat 16 bytes.length ∧
        t.trace = s.trace ++ literalEvents s.i s.cursor bytes ∧ ∃ r, t.violation = s.violation.or r) ∨
    (∃ events b p w, s.params.canvasBytes ≤ p.toNat ∧
      copyLiterals bytes s = .fault (.overrun (s.trace ++ events ++ [.sw b p]) (s.violation.getD w))) := by
  induction bytes generalizing s with
  | nil => exact .inl ⟨s, rfl, .refl s, by simp, rfl, by simp, by simp [literalEvents], none, by simp⟩
  | cons b rest ih =>
    rcases sinkWrite_cases b (readValue b s) with ⟨hlt, hw⟩ | ⟨hge, hw⟩
    · simp only [copyLiterals, hw, andThen_next]
      rcases ih (putByte b (readValue b s)) with ⟨t, ht, hs, hi, hv, hc, htr, r, hr⟩ | ⟨ev, b', p, w, hp, hf⟩
      · refine .inl ⟨t, ht, ((readValue_same b s).trans (putByte_same b _)).trans hs, ?_, ?_, ?_, ?_, _,
          by rw [hr, putByte_violation, readValue_violation, Option.or_assoc]⟩
        · rw [hi, List.length_cons, Nat.add_comm rest.length 1, BitVec.ofNat_add, ← BitVec.add_assoc]; simp
        · rw [hv]; cases rest <;> simp [List.getLast?_cons]
        · rw [hc, List.length_cons, Nat.add_comm rest.length 1, BitVec.ofNat_add, ← BitVec.add_assoc]; simp
        · rw [htr]; simp [literalEvents]
      · refine .inr ⟨.fr s.i b :: .sw b s.cursor :: ev, b', p,
          (if pastEnd s then some .overread else none).getD w, by simpa using hp, ?_⟩
        rw [hf, putByte_violation, readValue_violation, Option.getD_or]; simp
    · refine .inr ⟨[.fr s.i b], b, s.cursor, (if pastEnd s then some .overread else none).getD .overrun, by simpa using hge, ?_⟩
      rw [copyLiterals, hw, readValue_violation, Option.getD_or]; simp

end Sys2Proof.Machine
end

