-- ==== Sys2Proof/Laws/Loops.lean ====
section
/-!
SUPPORT. The copy loops of LIT and REP in full: their results on the canvas, their faults beyond it, their frames.
-/

namespace Sys2Proof.Machine

/-- Position `p` after a write at the cursor. -/
theorem canvasRead_putByte (v : Byte) (s : State) (p : Nat) :
    canvasRead (putByte v s) p = if p = s.cursor.toNat then some v else canvasRead s p := by
  simp [canvasRead, Memory.read_write]

theorem toNat_succ16 (c : WriteCursor) (h : c.toNat + 1 < 65536) : (c + 1).toNat = c.toNat + 1 := by
  rw [BitVec.toNat_add, show (1 : WriteCursor).toNat = 1 from rfl]; omega

theorem toNat_succ9 (c : ReadCursor) (h : c.toNat + 1 < 512) : (c + 1).toNat = c.toNat + 1 := by
  rw [BitVec.toNat_add, show (1 : ReadCursor).toNat = 1 from rfl]; omega

theorem outsideCount_succ (s : State) (off k : Nat) :
    outsideCount s off (k + 1) = (if outsideStore s off then 1 else 0) + outsideCount s (off + 1) k := by
  unfold outsideCount
  rw [List.range_succ_eq_map, List.countP_cons, List.countP_map]
  have : ((fun k => outsideStore s (off + k)) ∘ Nat.succ) = fun k => outsideStore s (off + 1 + k) := by
    funext k; simp only [Function.comp, Nat.succ_eq_add_one]; congr 1; omega
  rw [this]; simp only [Nat.add_zero]; omega

theorem outsideStore_congr (s t : State) (off : Nat) (hb : t.base = s.base) (hp : t.params = s.params) :
    outsideStore t off = outsideStore s off := by
  unfold outsideStore frameAddress; rw [hb, hp]

theorem outsideCount_congr (s t : State) (off k : Nat) (hb : t.base = s.base) (hp : t.params = s.params) :
    outsideCount t off k = outsideCount s off k := by
  unfold outsideCount; congr 1; funext k; exact outsideStore_congr s t _ hb hp

/-- The fill loop where all of it stays on the canvas. -/
theorem repeatFill_next (k : Nat) (v : Byte) (s : State) (hw : s.cursor.toNat + k < 65536)
    (hc : s.cursor.toNat + k ≤ s.params.canvasBytes) :
    ∃ t, repeatFill k v s = .next t ∧ LoopSame s t ∧ t.i = s.i ∧ t.v = s.v ∧ t.draws = s.draws ∧
      t.violation = s.violation ∧ t.cursor.toNat = s.cursor.toNat + k ∧
      t.trace = s.trace ++ fillEvents s.cursor v k ∧
      (∀ p, canvasRead t p = if s.cursor.toNat ≤ p ∧ p < s.cursor.toNat + k then some v else canvasRead s p) := by
  induction k generalizing s with
  | zero => exact ⟨s, rfl, .refl s, rfl, rfl, rfl, rfl, rfl, by simp [fillEvents], fun p => by
      rw [if_neg (by omega)]⟩
  | succ k ih =>
    have hcur : (putByte v s).cursor.toNat = s.cursor.toNat + 1 := by
      simp only [putByte_cursor, BitVec.toNat_add]; rw [show (1 : WriteCursor).toNat = 1 from rfl]; omega
    obtain ⟨t, ht, hs, hi, hv, hd, hvi, hcu, htr, hr⟩ := ih (putByte v s) (by omega) (by simp only [putByte_params]; omega)
    refine ⟨t, by simp [repeatFill, sinkWrite_next v s (by omega), ht], (putByte_same v s).trans hs, by simpa using hi,
      by simpa using hv, by simpa using hd, by simpa using hvi, by omega, by rw [htr]; simp [fillEvents], fun p => ?_⟩
    rw [hr p, canvasRead_putByte, hcur]
    split_ifs <;> first | rfl | omega

/-- The fill loop where it leaves the canvas. -/
theorem repeatFill_fault (k : Nat) (v : Byte) (s : State) (hw : s.cursor.toNat + k < 65536)
    (hle : s.cursor.toNat ≤ s.params.canvasBytes) (hc : s.params.canvasBytes < s.cursor.toNat + k) :
    repeatFill k v s = .fault (.overrun
      (s.trace ++ fillEvents s.cursor v (s.params.canvasBytes - s.cursor.toNat + 1)) (s.violation.getD .overrun)) := by
  induction k generalizing s with
  | zero => omega
  | succ k ih =>
    rcases Nat.lt_or_ge s.cursor.toNat s.params.canvasBytes with h | h
    · have hcur : (putByte v s).cursor.toNat = s.cursor.toNat + 1 := by
        simp only [putByte_cursor, BitVec.toNat_add]; rw [show (1 : WriteCursor).toNat = 1 from rfl]; omega
      have := ih (putByte v s) (by omega) (by simp only [putByte_params]; omega) (by simp only [putByte_params]; omega)
      rw [hcur] at this
      simp only [repeatFill, sinkWrite_next v s h, andThen_next, this, putByte_params, putByte_trace, putByte_cursor,
        putByte_violation]
      have e : s.params.canvasBytes - s.cursor.toNat + 1 = (s.params.canvasBytes - (s.cursor.toNat + 1) + 1) + 1 := by omega
      rw [e]; simp [fillEvents]
    · have e : s.params.canvasBytes - s.cursor.toNat = 0 := by omega
      simp [repeatFill, sinkWrite_fault v s h, e, fillEvents]

/-- The literal loop where all of it stays on the canvas. -/
theorem copyLiterals_next (bytes : List Byte) (s : State) (hw : s.cursor.toNat + bytes.length < 65536)
    (hi9 : s.i.toNat + bytes.length < 512)
    (hc : s.cursor.toNat + bytes.length ≤ s.params.canvasBytes) :
    ∃ t, copyLiterals bytes s = .next t ∧ LoopSame s t ∧ t.i.toNat = s.i.toNat + bytes.length ∧
      t.v = bytes.getLast?.getD s.v ∧
      t.draws = s.draws + outsideCount s s.i.toNat bytes.length ∧
      t.violation = s.violation.or (if bytes.length ≠ 0 ∧ s.L.toNat < s.i.toNat + bytes.length then some .overread else none) ∧
      t.cursor.toNat = s.cursor.toNat + bytes.length ∧
      t.trace = s.trace ++ literalEvents s.i s.cursor bytes ∧
      (∀ k, k < bytes.length → canvasRead t (s.cursor.toNat + k) = bytes[k]?) ∧
      (∀ p, p < s.cursor.toNat ∨ s.cursor.toNat + bytes.length ≤ p → canvasRead t p = canvasRead s p) := by
  induction bytes generalizing s with
  | nil => exact ⟨s, rfl, .refl s, rfl, rfl, by simp [outsideCount], by simp, rfl, by simp [literalEvents], by simp, fun p _ => rfl⟩
  | cons b rest ih =>
    simp only [List.length_cons] at hw hi9 hc ⊢
    set u := putByte b (readValue b s) with hu
    have hcur : u.cursor.toNat = s.cursor.toNat + 1 := by
      rw [hu, putByte_cursor, readValue_cursor, toNat_succ16]; omega
    have hii : u.i.toNat = s.i.toNat + 1 := by
      rw [hu, putByte_i, readValue_i, toNat_succ9]; omega
    have hpar : u.params = s.params := by simp [hu]
    obtain ⟨t, ht, hs, hi, hv, hd, hvi, hcu, htr, hr1, hr2⟩ := ih u (by omega) (by omega) (by rw [hpar]; omega)
    refine ⟨t, ?_, ((readValue_same b s).trans (putByte_same b _)).trans hs, by omega, ?_, ?_, ?_, by omega, ?_, ?_, ?_⟩
    · rw [copyLiterals, sinkWrite_next _ _ (by simp only [readValue_cursor, readValue_params]; omega), andThen_next]; exact ht
    · rw [hv]; cases rest <;> simp [List.getLast?_cons, hu]
    · rw [hd, hii, outsideCount_succ, outsideCount_congr s u _ _ (by simp [hu]) hpar]
      simp only [hu, putByte_draws, readValue_draws]; omega
    · rw [hvi, hii]
      simp only [hu, putByte_violation, readValue_violation, putByte_L, readValue_L, pastEnd_eq, decide_eq_true_eq]
      rcases s.violation with _ | _
      · simp only [Option.none_or]
        split_ifs <;> first | rfl | omega
      · simp
    · rw [htr]; simp [hu, literalEvents]
    · intro k hk
      cases k with
      | zero =>
        rw [hr2 _ (by omega), hu, canvasRead_putByte]; simp
      | succ k =>
        have := hr1 k (by omega)
        rw [hcur] at this
        rw [show s.cursor.toNat + (k + 1) = s.cursor.toNat + 1 + k by omega, this]; simp
    · intro p hp
      rw [hr2 p (by omega), hu, canvasRead_putByte, if_neg (by simp only [readValue_cursor]; omega)]
      simp [canvasRead]

/-- The literal loop where it leaves the canvas. -/
theorem copyLiterals_fault (bytes : List Byte) (s : State) (hw : s.cursor.toNat + bytes.length < 65536)
    (hi9 : s.i.toNat + bytes.length < 512)
    (hle : s.cursor.toNat ≤ s.params.canvasBytes) (hc : s.params.canvasBytes < s.cursor.toNat + bytes.length) :
    copyLiterals bytes s = .fault (.overrun
      (s.trace ++ literalEvents s.i s.cursor (bytes.take (s.params.canvasBytes - s.cursor.toNat + 1)))
      (s.violation.getD (if s.L.toNat ≤ s.i.toNat + (s.params.canvasBytes - s.cursor.toNat) then .overread
        else .overrun))) := by
  induction bytes generalizing s with
  | nil => simp at hc; omega
  | cons b rest ih =>
    simp only [List.length_cons] at hw hc hi9
    rcases Nat.lt_or_ge s.cursor.toNat s.params.canvasBytes with h | h
    · set u := putByte b (readValue b s) with hu
      have hcur : u.cursor.toNat = s.cursor.toNat + 1 := by
        rw [hu, putByte_cursor, readValue_cursor, toNat_succ16]; omega
      have hpar : u.params = s.params := by simp [hu]
      have hii : u.i.toNat = s.i.toNat + 1 := by rw [hu, putByte_i, readValue_i, toNat_succ9]; omega
      have := ih u (by omega) (by omega) (by rw [hpar]; omega) (by rw [hpar]; omega)
      rw [copyLiterals, sinkWrite_next _ _ (by simpa using h), andThen_next, ← hu, this, hpar, hcur, hii]
      have e : s.params.canvasBytes - s.cursor.toNat + 1 = (s.params.canvasBytes - (s.cursor.toNat + 1) + 1) + 1 := by omega
      have e2 : s.i.toNat + 1 + (s.params.canvasBytes - (s.cursor.toNat + 1)) =
          s.i.toNat + (s.params.canvasBytes - s.cursor.toNat) := by omega
      have hv : u.violation = s.violation.or (if s.L.toNat ≤ s.i.toNat then some .overread else none) := by
        simp [hu, pastEnd_eq]
      have hL : u.L = s.L := by simp [hu]
      rw [e, e2, hv, hL, Option.getD_or]
      congr 2
      · simp [literalEvents, hu]
      · congr 1
        split_ifs <;> first | rfl | omega
    · have e : s.params.canvasBytes - s.cursor.toNat = 0 := by omega
      rw [copyLiterals, sinkWrite_fault _ _ (by simpa using h), readValue_violation, Option.getD_or, pastEnd_eq]
      simp only [e, andThen_fault, readValue_trace, readValue_cursor, decide_eq_true_eq, Nat.add_zero]
      congr 2
      · simp [literalEvents]
      · congr 1; split_ifs <;> rfl

/-- The fill loop changes no position but those it writes. -/
theorem repeatFill_canvas (k : Nat) (v : Byte) (s t : State) (h : repeatFill k v s = .next t) (p : Nat)
    (hp : ∀ j, j < k → (s.cursor + BitVec.ofNat 16 j).toNat ≠ p) : canvasRead t p = canvasRead s p := by
  induction k generalizing s with
  | zero => simp only [repeatFill, Host.Outcome.next.injEq] at h; rw [h]
  | succ k ih =>
    rcases sinkWrite_cases v s with ⟨-, hw⟩ | ⟨-, hw⟩
    · simp only [repeatFill, hw, andThen_next] at h
      rw [ih _ h (fun j hj => ?_), canvasRead_putByte, if_neg]
      · have := hp 0 (by omega); simp at this; omega
      · have := hp (j + 1) (by omega)
        rw [putByte_cursor]
        rwa [Nat.add_comm j 1, BitVec.ofNat_add, ← BitVec.add_assoc] at this
    · simp [repeatFill, hw] at h

/-- The literal loop changes no position but those it writes. -/
theorem copyLiterals_canvas (bytes : List Byte) (s t : State) (h : copyLiterals bytes s = .next t) (p : Nat)
    (hp : ∀ j, j < bytes.length → (s.cursor + BitVec.ofNat 16 j).toNat ≠ p) : canvasRead t p = canvasRead s p := by
  induction bytes generalizing s with
  | nil => simp only [copyLiterals, Host.Outcome.next.injEq] at h; rw [h]
  | cons b rest ih =>
    rcases sinkWrite_cases b (readValue b s) with ⟨-, hw⟩ | ⟨-, hw⟩
    · simp only [copyLiterals, hw, andThen_next] at h
      rw [ih _ h (fun j hj => ?_), canvasRead_putByte, if_neg]
      · simp [canvasRead]
      · have := hp 0 (by simp); simp at this ⊢; omega
      · have := hp (j + 1) (by simp; omega)
        rw [putByte_cursor, readValue_cursor]
        rwa [Nat.add_comm j 1, BitVec.ofNat_add, ← BitVec.add_assoc] at this
    · simp [copyLiterals, hw] at h

end Sys2Proof.Machine
end

