-- ==== Sys2Proof/Laws/Exec.lean ====
section
/-!
SUPPORT. What the meanings of LIT and REP can do, said once, and the step by what the Decoder is doing.
-/

namespace Sys2Proof.Machine

@[simp] theorem writePositions_fr (i : ReadCursor) (b : Byte) (events : List Event) :
    writePositions (.fr i b :: events) = writePositions events := rfl

@[simp] theorem writePositions_sw (v : Byte) (p : WriteCursor) (events : List Event) :
    writePositions (.sw v p :: events) = p.toNat :: writePositions events := rfl

/-- The literal loop writes once per byte. -/
@[simp] theorem literalEvents_writes (bytes : List Byte) (i : ReadCursor) (p : WriteCursor) :
    (writePositions (literalEvents i p bytes)).length = bytes.length := by
  induction bytes generalizing i p with
  | nil => rfl
  | cons b rest ih => simp [literalEvents, ih]

/-- The fill loop writes `count` times. -/
@[simp] theorem fillEvents_writes (count : Nat) (p : WriteCursor) (v : Byte) :
    (writePositions (fillEvents p v count)).length = count := by
  induction count generalizing p with
  | zero => rfl
  | succ k ih => simp [fillEvents, ih]

/-- LIT, all it can do in any state. -/
theorem exec_lit_cases (n : Count) (bytes : List Byte) (s : State) :
    (∃ t events, exec (.lit n bytes) s = .next t ∧ SelectorSame s t ∧ t.phase = s.phase ∧ t.L = s.L ∧
      t.i = s.i + 1 + BitVec.ofNat 9 bytes.length ∧ t.cursor = s.cursor + BitVec.ofNat 16 bytes.length ∧
      t.trace = s.trace ++ events ∧ (writePositions events).length = bytes.length ∧
      ∃ r, t.violation = s.violation.or r) ∨
    (∃ events b p w, s.params.canvasBytes ≤ p.toNat ∧
      exec (.lit n bytes) s = .fault (.overrun (s.trace ++ events ++ [.sw b p]) (s.violation.getD w))) := by
  set u := loadCount n (note (n == 0 && !s.params.allowLit0) .lit0 (fetchControl (litControl n) s)) with hu
  have hsu : SelectorSame s u := by constructor <;> simp [hu]
  rcases copyLiterals_cases bytes u with ⟨t, ht, hsame, hi, hv, hc, htr, r, hr⟩ | ⟨ev, b, p, w, hp, hf⟩
  · refine .inl ⟨t, .fr s.i (litControl n) :: literalEvents u.i u.cursor bytes, ht, hsu.trans hsame.toSelectorSame, ?_, ?_, ?_, ?_, ?_, ?_, ?_⟩
    · rw [hsame.phase]; simp [hu]
    · rw [hsame.L]; simp [hu]
    · rw [hi]; simp [hu]
    · rw [hc]; simp [hu]
    · rw [htr]; simp [hu]
    · simp
    · exact ⟨_, by rw [hr, hu, loadCount_violation, note_violation, fetchControl_violation, Option.or_assoc, Option.or_assoc]⟩
  · refine .inr ⟨.fr s.i (litControl n) :: ev, b, p,
      (if pastEnd s then some .overread else none).getD
        ((if n == 0 && !s.params.allowLit0 then some .lit0 else none).getD w), by simpa [hu] using hp, ?_⟩
    rw [exec, execLit, hf, hu, loadCount_violation, note_violation, fetchControl_violation, Option.getD_or, Option.getD_or]
    simp

/-- REP, all it can do in any state. -/
theorem exec_rep_cases (n : Count) (v : Byte) (s : State) :
    (∃ t events, exec (.rep n v) s = .next t ∧ SelectorSame s t ∧ t.phase = s.phase ∧ t.L = s.L ∧
      t.i = s.i + 2 ∧ t.cursor = s.cursor + BitVec.ofNat 16 n.toNat ∧
      t.trace = s.trace ++ events ∧ (writePositions events).length = n.toNat ∧
      ∃ r, t.violation = s.violation.or r) ∨
    (∃ events b p w, s.params.canvasBytes ≤ p.toNat ∧
      exec (.rep n v) s = .fault (.overrun (s.trace ++ events ++ [.sw b p]) (s.violation.getD w))) := by
  set u := readValue v (loadCount n (fetchControl (repControl n) s)) with hu
  have hsu : SelectorSame s u := by constructor <;> simp [hu]
  rcases repeatFill_cases n.toNat v u with ⟨t, ht, hsame, hi, hv, hd, hvi, hc, htr⟩ | ⟨j, p, hj, hp, hf⟩
  · refine .inl ⟨t, .fr s.i (repControl n) :: .fr (s.i + 1) v :: fillEvents u.cursor v n.toNat, ht, hsu.trans hsame.toSelectorSame, ?_, ?_, ?_, ?_, ?_, ?_, ?_⟩
    · rw [hsame.phase]; simp [hu]
    · rw [hsame.L]; simp [hu]
    · rw [hi]; simp only [hu, readValue_i, loadCount_i, fetchControl_i, BitVec.add_assoc]; rfl
    · rw [hc]; simp [hu]
    · rw [htr]; simp [hu]
    · simp
    · exact ⟨_, by rw [hvi, hu, readValue_violation, loadCount_violation, fetchControl_violation, Option.or_assoc]⟩
  · refine .inr ⟨.fr s.i (repControl n) :: .fr (s.i + 1) v :: fillEvents u.cursor v j, v, p,
      (if pastEnd s then some .overread else none).getD
        ((if pastEnd (loadCount n (fetchControl (repControl n) s)) then some .overread else none).getD .overrun),
      by simpa [hu] using hp, ?_⟩
    rw [exec, execRep, hf, hu, readValue_violation, loadCount_violation, fetchControl_violation, Option.getD_or,
      Option.getD_or]
    simp

/-- Either segment, all it can do in any state: it moves `i` by its size and `cursor` by its output, appends as many
writes, keeps a violation already recorded, and leaves the rest alone; or it faults beyond the canvas, reporting a
violation already recorded. -/
theorem exec_segment_cases (s : State) (i : Instr) (hi : i.position = .segment) :
    (∃ t events, exec i s = .next t ∧ SelectorSame s t ∧ t.phase = s.phase ∧ t.L = s.L ∧
      t.i = s.i + BitVec.ofNat 9 i.size ∧ t.cursor = s.cursor + BitVec.ofNat 16 i.expand.length ∧
      t.trace = s.trace ++ events ∧ (writePositions events).length = i.expand.length ∧
      ∃ r, t.violation = s.violation.or r) ∨
    (∃ events b p w, s.params.canvasBytes ≤ p.toNat ∧
      exec i s = .fault (.overrun (s.trace ++ events ++ [.sw b p]) (s.violation.getD w))) := by
  cases i with
  | hdr l => simp [Instr.position] at hi
  | lit n bytes =>
    have e : s.i + 1 + BitVec.ofNat 9 bytes.length = s.i + BitVec.ofNat 9 (Instr.lit n bytes).size := by
      rw [Instr.size, BitVec.ofNat_add, BitVec.add_assoc]; rfl
    have := exec_lit_cases n bytes s
    rw [e] at this; exact this
  | rep n v => simpa [Instr.size, Instr.expand] using exec_rep_cases n v s

/-- The step of an idle block. -/
theorem step_idle (s : State) (h : s.phase = .idle) : step s = hostStep s := by simp [step, h]

/-- The step at offset 0 of a frame. -/
theorem step_header (s : State) (h : s.phase = .header) : step s = exec (.hdr (frameByte s 0)) s := by
  simp [step, h, runFetched, fetchBytes, frameBytes, decode]

/-- The step at a segment boundary before the end. -/
theorem step_segment (s : State) (h : s.phase = .segment) (hl : s.i.toNat < s.L.toNat) :
    step s = runFetched .segment s := by
  simp [step, h, segmentStep, (loopContinues_iff s).2 hl]

/-- The step at a segment boundary at or past the end. -/
theorem step_end (s : State) (h : s.phase = .segment) (hl : s.L.toNat ≤ s.i.toNat) :
    step s = .next (finishDecode s) := by
  have : loopContinues s = false := by
    rcases hh : loopContinues s with _ | _
    · rfl
    · have := (loopContinues_iff s).1 hh; omega
  simp [step, h, segmentStep, this]

@[simp] theorem frameBytes_length (s : State) (off k : Nat) : (frameBytes s off k).length = k := by simp [frameBytes]

/-- The step that takes a RENDER. -/
theorem step_render (s : State) (time w : Nat) (ops : List HostOp) (hp : s.phase = .idle)
    (ho : s.hostOps = .render time w :: ops) : step s = .next (render time w (setHostOps ops s)) := by
  simp [step, hp, hostStep, ho, invoke]

end Sys2Proof.Machine
end

