-- ==== Sys2Proof/Laws/Frames.lean ====
section
/-!
SUPPORT. What the conditions on frames say, clause by clause, and what an instantiation answers.
-/

namespace Sys2Proof.Machine

/-- W2 and W4 of 30_encoding.md R80. -/
theorem fitsCanvas_iff (canvasBytes : Nat) (allowLit0 : Bool) (segs : List Instr) :
    fitsCanvas canvasBytes allowLit0 segs = true ↔
      (outputOf segs).length = canvasBytes ∧ (allowLit0 = true ∨ ∀ x ∈ segs, x.isLit0 = false) := by
  simp [fitsCanvas]

/-- W1 to W4 of 30_encoding.md R80. -/
theorem wellFormedFrame_iff (p : Params) (base : Nat) : wellFormedFrame p base = true ↔
    1 ≤ (storeByte p base).toNat ∧ base + (storeByte p base).toNat ≤ p.romSize ∧ ∃ segs,
      parseSegments ((storeByte p base).toNat - 1) (storedSegments (storeByte p) base (storeByte p base)) = some segs ∧
      fitsCanvas p.canvasBytes p.allowLit0 segs = true := by
  unfold wellFormedFrame frameFits
  simp only [Bool.and_eq_true, decide_eq_true_eq, and_assoc]
  refine and_congr_right fun _ => and_congr_right fun _ => ?_
  cases parseSegments ((storeByte p base).toNat - 1) (storedSegments (storeByte p) base (storeByte p base)) <;> simp

/-- The same at a segment boundary, for what is left of the frame. -/
theorem restFits_iff (s : State) : restFits s = true ↔
    s.i.toNat ≤ s.L.toNat ∧ s.base + s.L.toNat ≤ s.params.romSize ∧ ∃ segs,
      parseSegments (s.L.toNat - s.i.toNat)
        ((List.range (s.L.toNat - s.i.toNat)).map fun k => storeByte s.params (s.base + s.i.toNat + k)) = some segs ∧
      fitsCanvas (s.params.canvasBytes - s.cursor.toNat) s.params.allowLit0 segs = true := by
  unfold restFits
  simp only [Bool.and_eq_true, decide_eq_true_eq, and_assoc]
  refine and_congr_right fun _ => and_congr_right fun _ => ?_
  cases parseSegments (s.L.toNat - s.i.toNat)
    ((List.range (s.L.toNat - s.i.toNat)).map fun k => storeByte s.params (s.base + s.i.toNat + k)) <;> simp

/-- The frames the Selector can select, one address per side, pose and index of the pose's set. -/
theorem mem_frameBases (table : Side → Pose → Nat → Nat) (taps idles paws aw b : Nat) :
    b ∈ frameBases table taps idles paws aw ↔ ∃ side,
      (∃ k, k < idles ∧ table side .idle k % 2 ^ aw = b) ∨ (∃ k, k < paws ∧ table side .paws k % 2 ^ aw = b) ∨
        ∃ k, k < taps ∧ table side .tap k % 2 ^ aw = b := by
  simp only [frameBases, List.mem_flatMap, List.mem_append, List.mem_map, List.mem_range, or_assoc]
  exact ⟨fun ⟨side, _, h⟩ => ⟨side, h⟩, fun ⟨side, h⟩ => ⟨side, by cases side <;> simp, h⟩⟩

/-- An instantiation that is not refused is one of good frames, and starts at reset. -/
theorem instantiate_next {p : Params} {s : State} (h : instantiate p = .next s) :
    allFramesOk p = true ∧ s = { State.reset with params := p } := by
  unfold instantiate at h
  split at h
  · exact ⟨‹_›, by cases h; rfl⟩
  · cases h

end Sys2Proof.Machine
end

