-- ==== Sys2Proof/Laws/PerInstr.lean ====
section
/-!
SUPPORT. Statements for all instructions, one lemma per constructor of `Instr`.
-/

/-- A well-formed item's bytes are as many as the spec gives it: 1 for HDR, `1 + n` for LIT, 2 for REP
(30_encoding.md R71, R73, R74). -/
def Sys2Proof.Laws.EncodedLength.Statement (i : Sys2Proof.Instr) : Prop :=
  i.wf = true → (Sys2Proof.encode i).length = i.size ∧
    ∀ n bytes, i = .lit n bytes → (Sys2Proof.encode i).length = 1 + n.toNat

namespace Sys2Proof.Laws.EncodedLength

open Sys2Proof

theorem hdr (l : Byte) : Statement (.hdr l) := by intro _; exact ⟨rfl, by intro n bytes h; cases h⟩

theorem lit (n : Count) (bytes : List Byte) : Statement (.lit n bytes) := by
  intro h
  have hl : bytes.length = n.toNat := by simpa [Instr.wf] using h
  refine ⟨by simp [encode, Instr.size, Nat.add_comm], ?_⟩
  intro n' bytes' e
  obtain ⟨rfl, rfl⟩ := Instr.lit.inj e
  simp [encode, hl, Nat.add_comm]

theorem rep (n : Count) (v : Byte) : Statement (.rep n v) := by intro _; exact ⟨rfl, by intro n bytes h; cases h⟩

end Sys2Proof.Laws.EncodedLength
end

