-- ==== Sys2Proof/Laws/Selector.lean ====
section
/-!
SUPPORT. What the stages of RENDER and the host operations can do.
-/

namespace Sys2Proof.Machine

/-- What the activity stage leaves in the Activity Timestamp and the stored sample. -/
theorem activityStage_eq (now w : Nat) (s : State) :
    (activityStage now w s).activityTs = (if s.params.actMode = .wpm ∧ s.lastWpm < w % 2 ^ s.params.ww then now else s.activityTs) ∧
    (activityStage now w s).lastWpm = (if s.params.actMode = .wpm then w % 2 ^ s.params.ww else s.lastWpm) := by
  rcases h : s.params.actMode with _ | _ <;> by_cases hlt : s.lastWpm < w % 2 ^ s.params.ww <;>
    simp [activityStage, h, wpmIncreased, wpmSample, hlt]

/-- The activity stage as one record update. -/
theorem activityStage_record (now w : Nat) (ops : List HostOp) (s : State) (act wpm : Nat)
    (ha : act = (if s.params.actMode = .wpm ∧ s.lastWpm < w % 2 ^ s.params.ww then now else s.activityTs))
    (hw : wpm = (if s.params.actMode = .wpm then w % 2 ^ s.params.ww else s.lastWpm)) :
    activityStage now w (setHostOps ops s) = { s with hostOps := ops, activityTs := act, lastWpm := wpm } := by
  subst ha hw
  rcases h : s.params.actMode with _ | _ <;> by_cases hlt : s.lastWpm < w % 2 ^ s.params.ww <;>
    simp [activityStage, h, setHostOps, takeWpmSample, wpmIncreased, wpmSample, hlt]

/-- What the power decision and the tick leave alone, whichever is chosen. -/
theorem selectFrame_keeps (now : Nat) (s : State) :
    (selectFrame now s).activityTs = s.activityTs ∧ (selectFrame now s).lastWpm = s.lastWpm ∧
    (selectFrame now s).params = s.params ∧ (selectFrame now s).hostOps = s.hostOps ∧ (selectFrame now s).canvas = s.canvas ∧
    (selectFrame now s).trace = s.trace ∧ (selectFrame now s).L = s.L ∧ (selectFrame now s).i = s.i ∧
    (selectFrame now s).cursor = s.cursor ∧ (selectFrame now s).c = s.c ∧ (selectFrame now s).n = s.n ∧ (selectFrame now s).v = s.v := by
  unfold selectFrame; split <;> simp

/-- The next tap index as a number. -/
theorem nextTapIdx_toNat (s : State) (h : Inv s) : (nextTapIdx s).toNat = (s.tapIdx.toNat + 1) % s.params.tapFrames := by
  have := h.params_ok.tapFrames_le
  have := Nat.mod_lt (s.tapIdx.toNat + 1) h.params_ok.tapFrames_pos
  simp only [nextTapIdx, BitVec.toNat_ofNat]
  exact Nat.mod_eq_of_lt (by omega)

/-- The next idle index as a number. -/
theorem nextIdleIdx_toNat (s : State) (h : Inv s) : (nextIdleIdx s).toNat = (s.idleIdx.toNat + 1) % s.params.idleFrames := by
  have h1 := h.params_ok.idleFrames_le
  have h2 := h.idleIdx_lt
  unfold nextIdleIdx
  split
  · rename_i he; rw [he, Nat.mod_self]; rfl
  · rw [Nat.mod_eq_of_lt (by omega), BitVec.toNat_add, show (1 : SubFrame).toNat = 1 from rfl]; omega

/-- A value cut to the timestamp's width is not cut further. -/
theorem timestamp_idem (tw : Option Nat) (t : Nat) : timestamp tw (timestamp tw t) = timestamp tw t := by
  cases tw <;> simp [timestamp]

/-- The step of an idle block always answers a next state; what each host operation leaves alone. -/
theorem hostStep_next (s : State) (hp : s.phase = .idle) : ∃ t, hostStep s = .next t ∧ t.params = s.params ∧ t.trace = s.trace ∧ t.canvas = s.canvas ∧ t.phase ≠ .segment ∧ t.cursor = s.cursor := by
  unfold hostStep
  rcases s.hostOps with _ | ⟨op, rest⟩
  · exact ⟨s, rfl, rfl, rfl, rfl, by simp [hp], rfl⟩
  · simp only [invoke, setHostOps_phase, hp]
    rcases op with ⟨time, w⟩ | time | _
    · refine ⟨_, rfl, ?_⟩
      simp only [render, selectFrame]
      split <;> simp
    · exact ⟨_, rfl, by simp [activity, hp]⟩
    · exact ⟨_, rfl, by simp [rotation, hp]⟩

end Sys2Proof.Machine
end

