-- ==== Sys2Proof/Tests/Slice0.lean ====
section
/-!
SUPPORT. Tests: the checks of well-formedness, encodings written out from 30_encoding.md, single steps with the values of
95_test_vectors.md, and, for every statement with hypotheses, a state that meets them.
-/

namespace Sys2Proof.Machine.Tests

/-! ### Helpers -/

/-- Parameters with every value known: `D = 200`, `TIMEOUT = 3000`, `KEY` mode, the left half, P3's Frame Store and frame
table (frame A at 0, frame B at 3), 10 bytes of Frame Store. -/
def params : Params where
  d := 200
  timeout := 3000
  tapFrames := 2
  idleFrames := 5
  pawsFrames := 1
  canvasBytes := 4
  aw := 16
  romSize := 10
  rom := Memory.writeAll [] 0
    [0x03#8, 0x04#8, 0x11#8, 0x07#8, 0x81#8, 0x22#8, 0x02#8, 0x33#8, 0x81#8, 0x44#8]
  ft := [⟨.left, .tap, 1, 0⟩, ⟨.left, .tap, 0, 0⟩, ⟨.left, .paws, 0, 3⟩, ⟨.left, .idle, 0, 3⟩, ⟨.left, .idle, 4, 0⟩]
  tw := none
  ww := 8
  actMode := .key
  side := .left
  role := .primary
  renderRet := true
  allowLit0 := true

/-- An idle block with those parameters. -/
def idle : State := { State.reset with params := params }

/-- An idle block to which the host has given operations. -/
def asked (ops : List HostOp) : State := { idle with hostOps := ops }

/-- An idle block last active at 1000, asked to RENDER at `now`. -/
def asRender (now w : Nat) : State := { asked [.render now w] with activityTs := 1000 }

/-- The same in `WPM` mode. -/
def asRenderWpm (now w : Nat) : State :=
  { asRender now w with params := { params with actMode := .wpm }, lastWpm := 40 }

/-- A decode of `frame` about to read its header, on a canvas of `size` bytes, the Frame Store holding nothing else. -/
def atHeader (size : Nat) (frame : List Byte) : State :=
  { idle with
    params := { params with rom := Memory.writeAll [] 0 frame, romSize := frame.length, canvasBytes := size }
    phase := .header }

/-- The same after the header: at the first segment boundary. -/
def atSegment (size : Nat) (frame : List Byte) : State :=
  { atHeader size frame with phase := .segment, i := 1, L := frame.headD 0 }

/-- The state after a run, or the one before it where the run stops. -/
def after (k : Nat) (s : State) : State := (nextState (runSteps k s)).getD s

/-! ### Well-formedness -/

/-- R73: a literal run with one byte fewer than its count, or one more, is no instruction. -/
theorem test_wf_refuses_short_literal : Instr.wf (.lit 2#7 [0xAA#8]) = false := by decide
theorem test_wf_refuses_long_literal : Instr.wf (.lit 0#7 [0xAA#8]) = false := by decide
theorem test_wf_accepts_literal : Instr.wf (.lit 2#7 [0xAA#8, 0xBB#8]) = true := by decide

/-- R80: W1 (a segment crossing `L`), W2 (output of another length), W3 (frame beyond the Frame Store), W4, `L = 0`. -/
theorem test_frame_refuses_w1 : wellFormedFrame (atHeader 3 [0x03#8, 0x83#8, 0x11#8, 0x22#8, 0x33#8]).params 0 = false := by
  decide
theorem test_frame_refuses_w2 : wellFormedFrame (atHeader 3 [0x03#8, 0x02#8, 0x5F#8]).params 0 = false := by decide
theorem test_frame_refuses_w3 : wellFormedFrame { params with romSize := 9 } 3 = false := by decide
theorem test_frame_refuses_w4 :
    wellFormedFrame { (atHeader 1 [0x04#8, 0x80#8, 0x01#8, 0x11#8]).params with allowLit0 := false } 0 = false := by decide
theorem test_frame_refuses_length0 : wellFormedFrame (atHeader 1 [0x00#8]).params 0 = false := by decide

/-- P3: frames A and B are well-formed for a canvas of 4. -/
theorem test_frames_a_b_wf : (wellFormedFrame params 0 && wellFormedFrame params 3) = true := by decide

/-- A frame table with frame A or B at every entry of one side. -/
def sideTable (sd : Side) : List FrameTableEntry :=
  [⟨sd, .tap, 0, 0⟩, ⟨sd, .tap, 1, 0⟩, ⟨sd, .paws, 0, 3⟩] ++ (List.range 5).map (fun k => ⟨sd, .idle, k, 3⟩)

/-- R163: all 16 frames well-formed, with a frame table that knows each. -/
theorem test_all_frames_ok : allFramesOk { params with ft := sideTable .left ++ sideTable .right } = true := by decide

/-- R147: one frame that leaves the Frame Store, the last idle frame of the right half, and the machine is refused. -/
theorem test_instantiate_refuses : instantiate { params with
    ft := ⟨.right, .idle, 4, 4⟩ :: (sideTable .left ++ sideTable .right) } = .refused .badFrame := by rfl

/-- R149: the over-read of the third literal, before the overrun of its write, is what is reported. -/
theorem test_reports_first_violation : step (atSegment 2 [0x03#8, 0x83#8, 0x11#8, 0x22#8, 0x33#8]) = .fault (.overrun
    [.fr 1 0x83#8, .fr 2 0x11#8, .sw 0x11#8 0, .fr 3 0x22#8, .sw 0x22#8 1, .fr 4 0x33#8, .sw 0x33#8 2] .overread) := by rfl

/-! ### Encodings, written out from 30_encoding.md -/

/-- R71, `llllllll`: 0000 0100 is a header of 4 (SV1); 1000 0001 at offset 0 is a header of 129, not a run (DV8). -/
theorem test_decode_hdr : decode .header [0b00000100#8] = .ok (.hdr 4#8) [] := by decide
theorem test_decode_hdr_high_bit : decode .header [0b10000001#8, 0xFF#8] = .ok (.hdr 129#8) [0xFF#8] := by decide

/-- R73, `1nnnnnnn`: 1000 0010 is a run of 2 (SV1), and payload bytes that look like control bytes are data (DV9). -/
theorem test_decode_lit : decode .segment [0b10000010#8, 0xAA#8, 0xBB#8, 0x01#8] = .ok (.lit 2#7 [0xAA#8, 0xBB#8]) [0x01#8] := by
  decide
theorem test_decode_lit_payload : decode .segment [0b10000001#8, 0x80#8] = .ok (.lit 1#7 [0x80#8]) [] := by decide

/-- R74, `0nnnnnnn vvvvvvvv`: 0000 0011 1000 0000 is 3 times 0x80 (DV10); 0111 1111 1111 1111 is 127 times 0xFF (DV7). -/
theorem test_decode_rep : decode .segment [0b00000011#8, 0b10000000#8, 0x81#8] = .ok (.rep 3#7 0x80#8) [0x81#8] := by decide
theorem test_decode_rep_longest : decode .segment [0b01111111#8, 0b11111111#8] = .ok (.rep 127#7 0xFF#8) [] := by decide

/-- R76: bytes that end too early are no segment. -/
theorem test_decode_refuses_short_lit : decode .segment [0x82#8, 0xAA#8] = .bad .literalCutShort := by decide
theorem test_decode_refuses_short_rep : decode .segment [0x02#8] = .bad .fillMissing := by decide
theorem test_decode_refuses_nothing : decode .header [] = .bad .noByte := by decide

/-- The three rows of opcode_table.json, each by a word of its row; a word of the REP row has its fill in bits 15:8. -/
theorem test_table_hdr : decodeTableWord 8 0x04 = some (.hdr 4#8) := by decide
theorem test_table_lit : decodeTableWord 8 0x82 = some (.lit 2#7 [0x00#8, 0x00#8]) := by decide +kernel
theorem test_table_rep : decodeTableWord 16 0x5F02 = some (.rep 2#7 0x5F#8) := by decide

/-- P1 and P2 of 95_test_vectors.md: the assembler and its pseudo-instructions. -/
theorem test_assemble_p1 :
    assemble [.rep 3#7 0x00#8, litLine [0x18#8, 0x3C#8], .rep 0#7 0xEE#8, .rep 3#7 0xFF#8] =
      some [0x0A#8, 0x03#8, 0x00#8, 0x82#8, 0x18#8, 0x3C#8, 0x00#8, 0xEE#8, 0x03#8, 0xFF#8] := by decide
theorem test_assemble_p2 :
    assemble (fillLines 300 0xAA#8) = some [0x07#8, 0x7F#8, 0xAA#8, 0x7F#8, 0xAA#8, 0x2E#8, 0xAA#8] := by decide
theorem test_bytes_lines : bytesLines [0x11#8, 0x22#8] = [.lit 2#7 [0x11#8, 0x22#8]] := by decide
theorem test_nop_line : assemble [nopLine] = some [0x03#8, 0x00#8, 0x00#8] := by decide
theorem test_assemble_refuses_256 : assemble (List.replicate 128 (.rep 1#7 0#8)) = none := by decide +kernel

/-! ### Memory -/

/-- A write keeps addresses rising, and reset's canvas and the test Frame Store are in canonical form. -/
theorem test_write_sorts : Memory.write [(3, 0xAA#8)] 1 0xBB#8 = [(1, 0xBB#8), (3, 0xAA#8)] := by decide
theorem test_reset_canvas_wf : Memory.wf State.reset.canvas = true := by decide

/-! ### Single steps -/

/-- SV1's header: `L = 4`, `i = 1`, `cursor = 0`. -/
theorem test_hdr : let s := after 1 (atHeader 2 [0x04#8, 0x82#8, 0xAA#8, 0xBB#8])
    (s.L, s.i, s.cursor, s.trace) = (4#8, 1#9, 0#16, [.fr 0 0x04#8]) := by decide

/-- SV1's run: read, write, read, write; `i = 4`, `cursor = 2`. -/
theorem test_lit : let s := after 1 (atSegment 2 [0x04#8, 0x82#8, 0xAA#8, 0xBB#8])
    (s.i, s.cursor, s.trace) =
      (4#9, 2#16, [.fr 1 0x82#8, .fr 2 0xAA#8, .sw 0xAA#8 0, .fr 3 0xBB#8, .sw 0xBB#8 1]) := by decide

/-- SV2's run: one read of the fill, two writes; `i = 3`, `cursor = 2`. -/
theorem test_rep : let s := after 1 (atSegment 2 [0x03#8, 0x02#8, 0x5F#8])
    (s.i, s.cursor, s.trace) = (3#9, 2#16, [.fr 1 0x02#8, .fr 2 0x5F#8, .sw 0x5F#8 0, .sw 0x5F#8 1]) := by decide

/-- DV17: the third write is the overrun, and it is in the trace. -/
theorem test_rep_overrun : step (atSegment 2 [0x03#8, 0x03#8, 0xAB#8]) = .fault (.overrun
    [.fr 1 0x03#8, .fr 2 0xAB#8, .sw 0xAB#8 0, .sw 0xAB#8 1, .sw 0xAB#8 2] .overrun) := by rfl

/-- DV3: 0x80 is one byte, no read after it and no write. DV15: a run crossing `L` is completed by the bytes the Frame
Store holds, and recorded. -/
theorem test_lit_edges :
    let s := after 1 (atSegment 2 [0x02#8, 0x80#8])
    let t := after 1 (atSegment 4 [0x03#8, 0x83#8, 0x11#8, 0x22#8, 0x33#8])
    (s.i, s.cursor, s.trace) = (2#9, 0#16, [.fr 1 0x80#8]) ∧
    (t.i, t.cursor, t.v, t.violation) = (5#9, 3#16, 0x33#8, some .overread) := by decide

/-- DV18: the end of a short decode keeps the stale byte at position 1, and is recorded. -/
theorem test_underfill_keeps_stale :
    let s := { atSegment 2 [0x03#8, 0x01#8, 0xAB#8] with i := 3, cursor := 1, canvas := [(0, 0xAB#8), (1, 0x20#8)] }
    ((after 1 s).canvas, (after 1 s).violation, (after 1 s).phase) =
      ([(0, 0xAB#8), (1, 0x20#8)], some .underfill, .idle) := by decide

/-- P6: the RENDER at 150 begins the decode of frame A, the one at 600 (in cooldown) that of frame B. -/
theorem test_tick_tap : let s := after 1 { asked [.render 150 0] with activityTs := 100 }
    (s.tapIdx, s.base, s.lastTick, s.phase) = (1#8, 0, 150, .header) := by decide
theorem test_tick_cooldown : let s := after 1 { asked [.render 600 0] with activityTs := 100, tapIdx := 1 }
    (s.tapIdx, s.base, s.lastTick, s.phase) = (1#8, 3, 600, .header) := by decide

/-- SE5, SE6: the idle index advances and wraps; SE8: at the timeout the Selector still runs. -/
theorem test_tick_idle : (after 1 { asRender 2600 0 with idleIdx := 3 }).idleIdx = 4#8 := by decide
theorem test_tick_idle_wraps : (after 1 { asRender 3000 0 with idleIdx := 4 }).idleIdx = 0#8 := by decide
theorem test_tick_at_timeout : (after 1 (asRender 4000 0)).phase = .header := by decide

/-- SE9: above the timeout, the display is powered off and no register is written. -/
theorem test_power_off : step (asRender 4001 0) =
    .next { asRender 4001 0 with hostOps := [], hostCalls := [.displayOff, .renderReturned true] } := by rfl

/-- SV3: the five thresholds. -/
theorem test_thresholds : [0, 399, 400, 1599, 1600].map (animState params) =
    [.tapping, .tapping, .cooldown, .cooldown, .idling] := by decide

/-- SE12: an increased sample is activity even from sleep; SE14: a fallen one is stored and is not. -/
theorem test_wpm_rises : let s := after 1 (asRenderWpm 9000 41)
    (s.activityTs, s.lastWpm, s.tapIdx) = (9000, 41, 1#8) := by decide
theorem test_wpm_falls : let s := after 1 (asRenderWpm 1400 30)
    (s.activityTs, s.lastWpm, s.base) = (1000, 30, 3) := by decide

/-- R112: the difference is modulo `2^TW`: 3 - 250 in 8 bits is 9. -/
theorem test_elapsed_wraps : elapsedSince (some 8) 3 250 = 9 := by decide

/-- R119, R120. -/
theorem test_activity : (after 1 (asked [.activity 77])).activityTs = 77 := by decide
theorem test_rotation : (after 1 (asked [.rotation])).hostCalls =
    [.rotationReturned (Config.rotation .left .primary)] := by rfl

/-- R165: an entry point invoked during a decode has no step. -/
theorem test_reentrant : invoke (.render 5 0) (atHeader 2 [0x02#8]) = .refused .reentrant := by rfl

/-- Log entry 25: after reset, a stored table word is what the next step runs: HDR by its `L`, LIT and REP by their
cursors. -/
theorem test_fetch_words : (after 1 (State.reset.withFetchWord 8 0x04)).L = 4#8 ∧
    (after 1 (State.reset.withFetchWord 8 0x82)).cursor = 2#16 ∧
    (after 1 (State.reset.withFetchWord 16 0x5F02)).trace =
      [.fr 1 0x02#8, .fr 2 0x5F#8, .sw 0x5F#8 0, .sw 0x5F#8 1] := by decide +kernel

/-! ### Witnesses: states and operands that meet the hypotheses of the statements of Obligations.lean, one for each clause -/

/-- The invariant as a check. -/
def invCheck (s : State) : Bool :=
  decide (0 < s.params.tapFrames ∧ s.params.tapFrames ≤ 256 ∧ 0 < s.params.idleFrames ∧ s.params.idleFrames ≤ 256 ∧
    0 < s.params.canvasBytes ∧ Memory.wf s.params.rom = true ∧ Memory.below s.params.romSize s.params.rom = true ∧
    Memory.wf s.canvas = true ∧ Memory.below s.params.canvasBytes s.canvas = true ∧
    s.tapIdx.toNat < s.params.tapFrames ∧ s.idleIdx.toNat < s.params.idleFrames ∧
    timestamp s.params.tw s.activityTs = s.activityTs ∧ timestamp s.params.tw s.lastTick = s.lastTick ∧
    wpmSample s.params s.lastWpm = s.lastWpm ∧ s.base % 2 ^ s.params.aw = s.base ∧
    (s.phase = .segment → 1 ≤ s.i.toNat ∧ s.i.toNat ≤ 382 ∧ s.cursor.toNat ≤ 127 * ((s.i.toNat - 1) / 2) ∧
      s.cursor.toNat ≤ 16129 ∧ s.cursor.toNat ≤ s.params.canvasBytes))

theorem inv_of_check (s : State) (h : invCheck s = true) : Inv s := by
  obtain ⟨h1, h2, h3, h4, h5, h6, h7, h8, h9, h10, h11, h12, h13, h14, h15, h16⟩ := of_decide_eq_true h
  exact ⟨⟨h1, h2, h3, h4, h5, h6, h7⟩, h8, h9, h10, h11, h12, h13, h14, h15, fun hp =>
    have k := h16 hp; ⟨k.1, k.2.1, k.2.2.1, k.2.2.2.1, k.2.2.2.2⟩⟩

theorem atSegment_of_check (s : State)
    (h : (invCheck s && decide (s.phase = .segment) && loopContinues s) = true) : AtSegment s := by
  simp only [Bool.and_eq_true, decide_eq_true_eq] at h
  exact ⟨inv_of_check s h.1.1, h.1.2, h.2⟩

/-- Where a run of 2 bytes begins, and its frames. -/
def litFrame : List Byte := [0x04#8, 0x82#8, 0xAA#8, 0xBB#8]
def repFrame : List Byte := [0x03#8, 0x02#8, 0x5F#8]

theorem witness_DecodeOfEncodeIsTheItem : Instr.wf (.hdr 255#8) = true ∧
    Instr.wf (.lit 127#7 (List.replicate 127 0x80#8)) = true ∧ Instr.wf (.lit 0#7 []) = true ∧
    Instr.wf (.rep 127#7 0x80#8) = true := by decide +kernel

theorem witness_SegmentListParsesBack :
    ∀ x ∈ [Instr.rep 0#7 0xEE#8, .lit 0#7 [], .lit 2#7 [0x82#8, 0x00#8]], x.isSegment = true ∧ x.wf = true := by decide

theorem witness_EncodeOfDecodeIsTheBytes : decode .header [0x04#8] = .ok (.hdr 0x04#8) [] ∧
    decode .segment [0x81#8, 0x80#8, 0x01#8] = .ok (.lit 1#7 [0x80#8]) [0x01#8] ∧
    decode .segment [0x7F#8, 0xFF#8] = .ok (.rep 127#7 0xFF#8) [] := by decide

/-- The two clauses at the control bytes where they meet, 0x80 with no payload and 0x7F with one byte; 0xFF with exactly
127. -/
theorem witness_EveryControlByteIsAllocated :
    (128 ≤ (0x80#8 : Byte).toNat ∧ (0x80#8 : Byte).toNat - 128 ≤ ([] : List Byte).length) ∧
    ((0x7F#8 : Byte).toNat < 128 ∧ [0xAA#8] = 0xAA#8 :: []) ∧
    (0xFF#8 : Byte).toNat - 128 ≤ (List.replicate 127 0xAA#8).length := by decide +kernel

theorem witness_StepRunsDecodedItem :
    (atHeader 2 litFrame).phase = .header ∧
    decode .header (fetchBytes (atHeader 2 litFrame) .header) = .ok (.hdr 4#8) [] ∧
    (atSegment 2 litFrame).phase = .segment ∧ (atSegment 2 litFrame).i.toNat < (atSegment 2 litFrame).L.toNat ∧
    decode .segment (fetchBytes (atSegment 2 litFrame) .segment) = .ok (.lit 2#7 [0xAA#8, 0xBB#8]) [] := by decide

theorem witness_StepRunsStoredTableWord : decodeTableWord 8 0x00 = some (.hdr 0#8) ∧
    decodeTableWord 8 0x80 = some (.lit 0#7 []) ∧ decodeTableWord 16 0x5F7F = some (.rep 127#7 0x5F#8) := by
  decide +kernel

/-- At `i = L`, at `i` above `L`, and with `L = 0`. -/
theorem witness_LoopTestEndsDecode :
    let s := { atSegment 2 litFrame with i := 4 }
    (s.phase = .segment ∧ s.L.toNat ≤ s.i.toNat) ∧ s.L.toNat ≤ ({ s with i := 382 } : State).i.toNat ∧
    ({ s with L := 0 } : State).L.toNat ≤ s.i.toNat := by decide

theorem witness_EmptyFrameEndsAtOnce : (0x00#8 : Byte).toNat ≤ 1 ∧ (0x01#8 : Byte).toNat ≤ 1 := by decide

/-- A run that ends exactly at the canvas's end; the same past `L`; the run of count 0 with `ALLOW_LIT0` false. -/
theorem witness_LitCopiesItsLiterals :
    (AtSegment (atSegment 2 litFrame) ∧ Instr.wf (.lit 2#7 [0xAA#8, 0xBB#8]) = true ∧
      (atSegment 2 litFrame).cursor.toNat + (2#7 : Count).toNat ≤ (atSegment 2 litFrame).params.canvasBytes) ∧
    AtSegment { atSegment 2 litFrame with L := 3 } ∧
    AtSegment { atSegment 2 [0x02#8, 0x80#8] with params := { params with allowLit0 := false } } :=
  ⟨⟨atSegment_of_check _ (by decide), by decide, by decide⟩, atSegment_of_check _ (by decide),
    atSegment_of_check _ (by decide)⟩

theorem witness_LitBeyondCanvasFaults : AtSegment (atSegment 1 litFrame) ∧ Instr.wf (.lit 2#7 [0xAA#8, 0xBB#8]) = true ∧
    (atSegment 1 litFrame).params.canvasBytes < (atSegment 1 litFrame).cursor.toNat + (2#7 : Count).toNat :=
  ⟨atSegment_of_check _ (by decide), by decide, by decide⟩

theorem witness_LitOfCountZeroOnlyMovesOn : let s := atSegment 2 [0x02#8, 0x80#8]
    s.phase = .segment ∧ s.i.toNat < s.L.toNat := by decide

/-- A run that ends exactly at the canvas's end; the same with its fill byte at `L`. -/
theorem witness_RepRepeatsItsFill :
    (AtSegment (atSegment 2 repFrame) ∧
      (atSegment 2 repFrame).cursor.toNat + (2#7 : Count).toNat ≤ (atSegment 2 repFrame).params.canvasBytes) ∧
    AtSegment { atSegment 2 repFrame with L := 2 } :=
  ⟨⟨atSegment_of_check _ (by decide), by decide⟩, atSegment_of_check _ (by decide)⟩

theorem witness_RepBeyondCanvasFaults : AtSegment (atSegment 1 repFrame) ∧
    (atSegment 1 repFrame).params.canvasBytes < (atSegment 1 repFrame).cursor.toNat + (2#7 : Count).toNat :=
  ⟨atSegment_of_check _ (by decide), by decide⟩

theorem witness_RepOfCountZeroReadsItsFillOnly : let s := atSegment 2 [0x02#8, 0x00#8, 0x77#8]
    s.phase = .segment ∧ s.i.toNat < s.L.toNat := by decide

/-- Each item answers a next state: the hypothesis of the frame statement, and of every statement of the form
`if step answers next t`. -/
theorem witness_ItemsChangeOnlyDecoderAndOutput : ∃ t u w,
    exec (.hdr 4#8) (atHeader 2 litFrame) = .next t ∧
    exec (.lit 2#7 [0xAA#8, 0xBB#8]) (atSegment 2 litFrame) = .next u ∧
    exec (.rep 2#7 0x5F#8) (atSegment 2 repFrame) = .next w := ⟨_, _, _, rfl, rfl, rfl⟩

theorem witness_EveryDecodeEnds : (atHeader 2 litFrame).phase ≠ .idle ∧ (atSegment 2 litFrame).phase ≠ .idle := by decide

/-- Frame B of P3, at base 3. -/
def frameB : List Byte := [0x07#8, 0x81#8, 0x22#8, 0x02#8, 0x33#8, 0x81#8, 0x44#8]
def segmentsB : List Instr := [.lit 1#7 [0x22#8], .rep 2#7 0x33#8, .lit 1#7 [0x44#8]]
def atFrameB : State := { idle with base := 3, phase := .header }

theorem witness_AssembledFrameDecodesToItsOutput : atFrameB.phase = .header ∧
    (∀ x ∈ segmentsB, x.isSegment = true ∧ x.wf = true) ∧ assemble segmentsB = some frameB ∧
    (∀ k, (h : k < frameB.length) →
      atFrameB.base + k < atFrameB.params.romSize ∧ storeByte atFrameB.params (atFrameB.base + k) = frameB[k]) ∧
    (outputOf segmentsB).length ≤ atFrameB.params.canvasBytes :=
  ⟨by decide, by decide, by decide, by decide, by decide⟩

theorem witness_WellFormedFrameFillsTheCanvas : atFrameB.phase = .header ∧ atFrameB.violation = none ∧
    wellFormedFrame atFrameB.params atFrameB.base = true := by decide

/-- The same frame at base 3 and at base 0, with other bytes around it. -/
theorem witness_DecodeDependsOnFrameBytesOnly : let s := atFrameB; let s' := atHeader 4 frameB
    s.phase = .header ∧ s'.phase = .header ∧ wellFormedFrame s.params s.base = true ∧
    wellFormedFrame s'.params s'.base = true ∧ s.params.canvasBytes = s'.params.canvasBytes ∧
    ∀ k, k < max (storeByte s.params s.base).toNat 1 →
      storeByte s.params (s.base + k) = storeByte s'.params (s'.base + k) := by decide

/-- An idle block, the header, a segment and the end of a decode, each with the invariant and a next state. -/
theorem witness_StepKeepsInvariant : ∃ t u v w,
    (Inv (asRender 1399 0) ∧ step (asRender 1399 0) = .next t) ∧
    (Inv (atHeader 2 litFrame) ∧ step (atHeader 2 litFrame) = .next u) ∧
    (Inv (atSegment 2 litFrame) ∧ step (atSegment 2 litFrame) = .next v) ∧
    (Inv { atSegment 2 litFrame with i := 4, cursor := 2 } ∧
      step { atSegment 2 litFrame with i := 4, cursor := 2 } = .next w) :=
  ⟨_, _, _, _, ⟨inv_of_check _ (by decide), rfl⟩, ⟨inv_of_check _ (by decide), rfl⟩,
    ⟨inv_of_check _ (by decide), rfl⟩, ⟨inv_of_check _ (by decide), rfl⟩⟩

/-- A step that answers next, for the statements about any step that does (also with a decode in progress, and idle). -/
theorem witness_StepKeepsParameters : ∃ t, step (atHeader 2 litFrame) = .next t := ⟨_, rfl⟩
theorem witness_TraceOnlyGrows : ∃ t, step (atSegment 2 litFrame) = .next t := ⟨_, rfl⟩
theorem witness_HostAndDecoderNeverOverlap : ∃ t u,
    ((atSegment 2 litFrame).phase ≠ .idle ∧ step (atSegment 2 litFrame) = .next t) ∧
    ((asRender 1000 0).phase = .idle ∧ step (asRender 1000 0) = .next u) :=
  ⟨_, _, ⟨by decide, rfl⟩, by decide, rfl⟩
theorem witness_ReentrantInvocationRefused : ∃ t, (atHeader 2 litFrame).phase ≠ .idle ∧
    step (atHeader 2 litFrame) = .next t := ⟨_, by decide, rfl⟩
theorem witness_OnlyAWriteBeyondCanvasFaults : ∃ f, step (atSegment 1 litFrame) = .fault f := ⟨_, rfl⟩

/-- A violation recorded before a step that goes on, before one that faults, and a RENDER that begins a decode. -/
theorem witness_FirstViolationIsReported : ∃ t trace w u,
    step { atSegment 2 litFrame with violation := some .lit0 } = .next t ∧
    step { atSegment 1 litFrame with violation := some .lit0 } = .fault (.overrun trace w) ∧
    ((asRender 1399 0).phase = .idle ∧ step (asRender 1399 0) = .next u ∧ u.phase = .header) :=
  ⟨_, _, _, _, rfl, rfl, rfl, rfl, rfl⟩

theorem witness_WriteCursorIsSequential : ∃ t u v, sinkWrite 0xAA#8 (atSegment 1 litFrame) = .next t ∧
    ((atHeader 2 litFrame).phase = .header ∧ step (atHeader 2 litFrame) = .next u) ∧
    (Inv (atSegment 2 litFrame) ∧ (atSegment 2 litFrame).phase ≠ .header ∧ step (atSegment 2 litFrame) = .next v) :=
  ⟨_, _, _, rfl, ⟨by decide, rfl⟩, inv_of_check _ (by decide), by decide, rfl⟩

/-- Times equal to those held, and to each other. -/
theorem witness_MonotonicHostStaysAhead : ∃ t,
    MonotonicHost { asked [.activity 1000, .render 1000 0, .rotation] with activityTs := 1000 } ∧
    step { asked [.activity 1000, .render 1000 0, .rotation] with activityTs := 1000 } = .next t :=
  ⟨_, ⟨rfl, by decide, by decide, by decide⟩, rfl⟩

theorem witness_IdleBlockWaitsForTheHost : State.reset.phase = .idle ∧ State.reset.hostOps = [] := ⟨rfl, rfl⟩
theorem witness_ActivityWritesTheTimestampOnly :
    (asked [.activity 77]).phase = .idle ∧ (asked [.activity 77]).hostOps = [.activity 77] := ⟨rfl, rfl⟩
theorem witness_RotationReturnsTheOrientation :
    (asked [.rotation]).phase = .idle ∧ (asked [.rotation]).hostOps = [.rotation] := ⟨rfl, rfl⟩
theorem witness_ElapsedIsTheDifference : (3 < 2 ^ 8 ∧ 250 < 2 ^ 8) ∧ (255 < 2 ^ 8 ∧ 0 < 2 ^ 8) ∧ 5 ≤ 5 := by decide
theorem witness_ProgressionWithoutRestimulus : 399 ≤ 400 := by decide

/-- The premises of a tick: idle, a RENDER next, and what the activity stage leaves. -/
abbrev TickAt (s : State) (time w act wpm : Nat) : Prop :=
  s.phase = .idle ∧ s.hostOps = [.render time w] ∧
  act = (if s.params.actMode = .wpm ∧ s.lastWpm < w % 2 ^ s.params.ww then timestamp s.params.tw time else s.activityTs) ∧
  wpm = (if s.params.actMode = .wpm then w % 2 ^ s.params.ww else s.lastWpm)

/-- `WPM` mode with a sample above, equal to and below the stored one; `KEY` mode. -/
theorem witness_RenderTakesTheWpmSample :
    TickAt (asRenderWpm 9000 41) 9000 41 9000 41 ∧ TickAt (asRenderWpm 9000 40) 9000 40 1000 40 ∧
    TickAt (asRenderWpm 9000 39) 9000 39 1000 39 ∧ TickAt (asRender 9000 41) 9000 41 1000 0 := by decide

/-- The elapsed time those premises give. -/
abbrev elapsedOf (s : State) (time act : Nat) : Nat := elapsedSince s.params.tw (timestamp s.params.tw time) act

/-- The last elapsed time of Tapping, 399, and the first, 0, by a risen sample. -/
theorem witness_TappingTick :
    (Inv (asRender 1399 0) ∧ TickAt (asRender 1399 0) 1399 0 1000 0 ∧ elapsedOf (asRender 1399 0) 1399 1000 ≤ params.timeout ∧
      elapsedOf (asRender 1399 0) 1399 1000 < 2 * params.d) ∧
    (Inv (asRenderWpm 9000 41) ∧ TickAt (asRenderWpm 9000 41) 9000 41 9000 41 ∧
      elapsedOf (asRenderWpm 9000 41) 9000 9000 ≤ params.timeout ∧
      elapsedOf (asRenderWpm 9000 41) 9000 9000 < 2 * params.d) :=
  ⟨⟨inv_of_check _ (by decide), by decide, by decide, by decide⟩, inv_of_check _ (by decide), by decide, by decide, by decide⟩

/-- The first and the last elapsed time of Cooldown, 400 and 1599. -/
theorem witness_CooldownTick :
    (TickAt (asRender 1400 0) 1400 0 1000 0 ∧ elapsedOf (asRender 1400 0) 1400 1000 ≤ params.timeout ∧
      2 * params.d ≤ elapsedOf (asRender 1400 0) 1400 1000 ∧ elapsedOf (asRender 1400 0) 1400 1000 < 8 * params.d) ∧
    (TickAt (asRender 2599 0) 2599 0 1000 0 ∧ elapsedOf (asRender 2599 0) 2599 1000 ≤ params.timeout ∧
      2 * params.d ≤ elapsedOf (asRender 2599 0) 2599 1000 ∧ elapsedOf (asRender 2599 0) 2599 1000 < 8 * params.d) := by
  decide

/-- The first and the last elapsed time of Idling, 1600 and `TIMEOUT`. -/
theorem witness_IdlingTick :
    (Inv (asRender 2600 0) ∧ TickAt (asRender 2600 0) 2600 0 1000 0 ∧ elapsedOf (asRender 2600 0) 2600 1000 ≤ params.timeout ∧
      2 * params.d ≤ elapsedOf (asRender 2600 0) 2600 1000 ∧ 8 * params.d ≤ elapsedOf (asRender 2600 0) 2600 1000) ∧
    (Inv (asRender 4000 0) ∧ TickAt (asRender 4000 0) 4000 0 1000 0 ∧ elapsedOf (asRender 4000 0) 4000 1000 ≤ params.timeout ∧
      2 * params.d ≤ elapsedOf (asRender 4000 0) 4000 1000 ∧ 8 * params.d ≤ elapsedOf (asRender 4000 0) 4000 1000) :=
  ⟨⟨inv_of_check _ (by decide), by decide, by decide, by decide, by decide⟩,
    inv_of_check _ (by decide), by decide, by decide, by decide, by decide⟩

/-- The first elapsed time of sleep, one above `TIMEOUT`. -/
theorem witness_PowerOffTick :
    TickAt (asRender 4001 0) 4001 0 1000 0 ∧ params.timeout < elapsedOf (asRender 4001 0) 4001 1000 := by decide

theorem witness_SidesDifferInTheFrameTableOnly :
    (asRender 1399 0).phase = .idle ∧ (asRender 1399 0).hostOps = [.render 1399 0] := ⟨rfl, rfl⟩
/-- At the timeout and one above it, where the two cases meet. -/
theorem witness_RenderChangesAtMost :
    (TickAt (asRender 4000 0) 4000 0 1000 0 ∧ elapsedOf (asRender 4000 0) 4000 1000 ≤ params.timeout) ∧
    (TickAt (asRender 4001 0) 4001 0 1000 0 ∧ params.timeout < elapsedOf (asRender 4001 0) 4001 1000) := by decide

/-- Parameters the model is instantiated with, and the machine it gives, idle and asked to RENDER. -/
def goodParams : Params := { params with ft := sideTable .left ++ sideTable .right }
def good (ops : List HostOp) : State := { State.reset with params := goodParams, hostOps := ops }

theorem good_sound (ops : List HostOp) : Sound (good ops) :=
  ⟨inv_of_check _ (show invCheck (good []) = true by decide), test_all_frames_ok,
    (show 0 < goodParams.pawsFrames by decide), rfl, nofun, nofun⟩

/-- Both clauses: parameters that are accepted, and parameters with a bad frame at the last index of a set. -/
theorem witness_InstantiationRefusesBadFrames :
    (∀ side : Side, (∀ k, k < goodParams.idleFrames →
        wellFormedFrame goodParams (frameTable goodParams side .idle k % 2 ^ goodParams.aw) = true) ∧
      (∀ k, k < goodParams.pawsFrames →
        wellFormedFrame goodParams (frameTable goodParams side .paws k % 2 ^ goodParams.aw) = true) ∧
      (∀ k, k < goodParams.tapFrames →
        wellFormedFrame goodParams (frameTable goodParams side .tap k % 2 ^ goodParams.aw) = true)) ∧
    (4 < params.idleFrames ∧ wellFormedFrame { params with ft := [⟨.right, .idle, 4, 4⟩] }
      (frameTable { params with ft := [⟨.right, .idle, 4, 4⟩] } .right .idle 4 % 2 ^ params.aw) = false) :=
  ⟨fun side => by cases side <;> decide, by decide⟩

theorem witness_InstantiatedMachineIsSound : ParamsOk goodParams ∧ 0 < goodParams.pawsFrames ∧
    instantiate goodParams = .next (good []) := ⟨(good_sound []).inv.params_ok, by decide, rfl⟩

/-- Idle; the header of frame B; its first segment; the end of its decode. -/
theorem witness_SoundMachineNeverFails :
    let h : State := { good [] with base := 3, phase := .header }
    let b : State := { h with phase := .segment, i := 1, L := 7 }
    let e : State := { h with phase := .segment, i := 7, L := 7, cursor := 4 }
    Sound (good [.activity 5]) ∧ Sound h ∧ Sound b ∧ Sound e :=
  ⟨good_sound _, ⟨inv_of_check _ (by decide), test_all_frames_ok, by decide, rfl, fun _ => by decide, nofun⟩,
    ⟨inv_of_check _ (by decide), test_all_frames_ok, by decide, rfl, nofun, fun _ => by decide⟩,
    ⟨inv_of_check _ (by decide), test_all_frames_ok, by decide, rfl, nofun, fun _ => by decide⟩⟩

/-- At the timeout exactly. -/
theorem witness_RenderFillsTheCanvas : Sound (good [.render 3000 0]) ∧ TickAt (good [.render 3000 0]) 3000 0 0 0 ∧
    elapsedOf (good [.render 3000 0]) 3000 0 ≤ goodParams.timeout := ⟨good_sound _, by decide, by decide⟩
theorem witness_SinkWriteSetsItsPosition :
    (atSegment 1 litFrame).cursor.toNat < (atSegment 1 litFrame).params.canvasBytes := by decide

/-- The last offset inside the Frame Store. -/
theorem witness_FrameBytesNeverChange : ∃ t, step (atSegment 2 litFrame) = .next t ∧ (atSegment 2 litFrame).phase ≠ .idle ∧
    (atSegment 2 litFrame).base + 3 < (atSegment 2 litFrame).params.romSize := ⟨_, rfl, by decide, by decide⟩

end Sys2Proof.Machine.Tests
end

section
/-!
PROOFS. What a step answers, in every state: a next state whose trace continues the trace so far, or the one fault of
a write beyond the canvas; never a refusal. The key fact is that the fetch takes as many bytes as the control byte says,
so the decoder always finds a whole segment there.
-/

namespace Sys2Proof.Machine

/-- No control byte stands for an empty segment (30_encoding.md R76). -/
theorem segmentLength_pos (c : Byte) : 0 < segmentLength c := by
  unfold segmentLength
  split <;> omega

/-- As many bytes as the control byte says are one segment, with nothing left over (30_encoding.md R76, R85). -/
theorem decode_segment_of_length (c : Byte) (rest : List Byte) (h : (c :: rest).length = segmentLength c) :
    ∃ x, decode .segment (c :: rest) = .ok x [] ∧ x.position = .segment := by
  rw [List.length_cons, segmentLength] at h
  cases hc : isLiteral c with
  | true =>
    have hlen : rest.length = (countField c).toNat := by rw [hc, if_pos rfl] at h; omega
    exact ⟨.lit (countField c) rest, by simp [decode, hc, ← hlen], rfl⟩
  | false =>
    obtain ⟨v, rfl⟩ : ∃ v, rest = [v] := List.length_eq_one_iff.1 (by simpa [hc] using h)
    exact ⟨.rep (countField c) v, by simp [decode, hc], rfl⟩

/-- Frame bytes, the first one apart. -/
theorem frameBytes_succ (s : State) (off k : Nat) :
    frameBytes s off (k + 1) = frameByte s off :: frameBytes s (off + 1) k := by
  simp [frameBytes, List.range_succ_eq_map, Nat.add_assoc, Nat.add_comm 1]

/-- What is fetched at a segment boundary is one segment, whatever the bytes of the frame are. -/
theorem decode_fetchBytes_segment (s : State) :
    ∃ x, decode .segment (fetchBytes s .segment) = .ok x [] ∧ x.position = .segment := by
  obtain ⟨k, hk⟩ := Nat.exists_eq_succ_of_ne_zero (segmentLength_pos (frameByte s s.i.toNat)).ne'
  rw [fetchBytes, hk, frameBytes_succ]
  exact decode_segment_of_length _ _ (by rw [hk, List.length_cons, frameBytes_length])

/-- Before the end of a decode, a step at a segment boundary is the meaning of some segment. -/
theorem step_segment_exec (s : State) (hp : s.phase = .segment) (hl : s.i.toNat < s.L.toNat) :
    ∃ x, x.position = .segment ∧ step s = exec x s := by
  obtain ⟨x, hx, hpos⟩ := decode_fetchBytes_segment s
  exact ⟨x, hpos, by rw [step_segment s hp hl, runFetched, hx]⟩

/-- HDR answers a next state in every state, and appends its one read (40_decoder_segments.md R91). -/
theorem exec_hdr_trace (l : Byte) (s : State) :
    ∃ t, exec (.hdr l) s = .next t ∧ t.trace = s.trace ++ [.fr 0 l] := ⟨_, rfl, rfl⟩

/-- All a step can answer, in any state: it appends events to the trace, or it faults at a
segment on a write beyond the canvas (60_exceptions.md R144). -/
theorem step_next_or_overrun (s : State) :
    (∃ t events, step s = .next t ∧ t.trace = s.trace ++ events) ∨
    (s.phase = .segment ∧ s.i.toNat < s.L.toNat ∧ ∃ events v p w, s.params.canvasBytes ≤ p.toNat ∧
      step s = .fault (.overrun (s.trace ++ events ++ [.sw v p]) w)) := by
  cases hp : s.phase with
  | idle =>
    obtain ⟨t, ht, -, htr, -⟩ := hostStep_next s hp
    exact .inl ⟨t, [], by rw [step_idle s hp, ht], by rw [htr, List.append_nil]⟩
  | header =>
    obtain ⟨t, ht, htr⟩ := exec_hdr_trace (frameByte s 0) s
    exact .inl ⟨t, _, by rw [step_header s hp, ht], htr⟩
  | segment =>
    rcases Nat.lt_or_ge s.i.toNat s.L.toNat with hl | hl
    · obtain ⟨x, hx, hstep⟩ := step_segment_exec s hp hl
      rw [hstep]
      rcases exec_segment_cases s x hx with ⟨t, events, ht, -, -, -, -, -, htr, -⟩ | ⟨events, v, p, w, hout, hf⟩
      · exact .inl ⟨t, events, ht, htr⟩
      · exact .inr ⟨rfl, hl, events, v, p, _, hout, hf⟩
    · exact .inl ⟨finishDecode s, [], step_end s hp hl, by rw [finishDecode_trace, List.append_nil]⟩

/-- Settles O26: a step answers a next state or the overrun fault, so it is never refused. -/
theorem noStepIsRefused : Obligations.NoStepIsRefused := by
  intro s q hq
  rcases step_next_or_overrun s with ⟨t, events, ht, -⟩ | ⟨-, -, events, v, p, w, -, hf⟩
  · rw [ht] at hq; cases hq
  · rw [hf] at hq; cases hq

/-- Settles O28: the next state of a step continues the trace. -/
theorem traceOnlyGrows : Obligations.TraceOnlyGrows := by
  intro s t hs
  rcases step_next_or_overrun s with ⟨t', events, ht, htr⟩ | ⟨-, -, events, v, p, w, -, hf⟩
  · rw [ht] at hs; cases hs; exact ⟨events, htr⟩
  · rw [hf] at hs; cases hs

end Sys2Proof.Machine
end

section
/-!
PROOFS. The invariant and what every step keeps of it. A step is inverted once (`step_next_cases`); the invariant is then
three concerns, each with its own lemmas: the cursors at a segment boundary, the canvas, and the registers that only the
host's side writes.
-/

namespace Sys2Proof.Machine

/-! ### What a step can do -/

/-- The decoder answers well-formed items only: a literal run gets exactly the bytes its count field asks for. -/
theorem decode_wf {pos : Position} {bytes rest : List Byte} {x : Instr} (h : decode pos bytes = .ok x rest) :
    x.wf = true := by
  cases bytes with
  | nil => cases pos <;> simp [decode] at h
  | cons c tail =>
    cases pos with
    | header => simp only [decode, Decoded.ok.injEq] at h; rw [← h.1]; rfl
    | segment =>
      simp only [decode] at h
      split at h
      · split at h
        · rename_i hlen
          obtain ⟨rfl, -⟩ := Decoded.ok.inj h
          simpa [Instr.wf] using hlen
        · cases h
      · cases tail with
        | nil => cases h
        | cons v tail => obtain ⟨rfl, -⟩ := Decoded.ok.inj h; rfl

/-- How far one segment can move the two cursors: it writes at most 127 bytes, is at most 128 bytes long, and is at least
2 bytes long if it writes at all (30_encoding.md R73 to R75). -/
theorem segment_bounds {x : Instr} (hpos : x.position = .segment) (hwf : x.wf = true) :
    x.expand.length ≤ 127 ∧ 1 ≤ x.size ∧ x.size ≤ 128 ∧ (x.expand.length = 0 ∨ 2 ≤ x.size) := by
  cases x with
  | hdr l => cases hpos
  | lit n bytes =>
    have hlen : bytes.length = n.toNat := by simpa [Instr.wf] using hwf
    have := n.isLt
    simp only [Instr.expand, Instr.size]
    omega
  | rep n v =>
    have := n.isLt
    simp only [Instr.expand, Instr.size, List.length_replicate]
    omega

/-- Everything a step that answers a next state can have done, by what the Decoder was doing (40_decoder_segments.md
R103). -/
theorem step_next_cases {s t : State} (h : step s = .next t) :
    (s.phase = .idle ∧ hostStep s = .next t) ∨
    (s.phase = .header ∧ exec (.hdr (frameByte s 0)) s = .next t) ∨
    (s.phase = .segment ∧ s.i.toNat < s.L.toNat ∧
      ∃ x : Instr, x.position = .segment ∧ x.wf = true ∧ exec x s = .next t) ∨
    (s.phase = .segment ∧ s.L.toNat ≤ s.i.toNat ∧ t = finishDecode s) := by
  cases hp : s.phase with
  | idle => exact .inl ⟨rfl, by rw [← step_idle s hp, h]⟩
  | header => exact .inr (.inl ⟨rfl, by rw [← step_header s hp, h]⟩)
  | segment =>
    rcases Nat.lt_or_ge s.i.toNat s.L.toNat with hl | hl
    · obtain ⟨x, hx, hpos⟩ := decode_fetchBytes_segment s
      rw [step_segment s hp hl, runFetched, hx] at h
      exact .inr (.inr (.inl ⟨rfl, hl, x, hpos, decode_wf hx, h⟩))
    · rw [step_end s hp hl] at h
      exact .inr (.inr (.inr ⟨rfl, hl, by cases h; rfl⟩))

/-- Everything a host step of an idle block can have done (70_reset_and_hazards.md R166, R172). -/
theorem hostStep_next_cases {s t : State} (hp : s.phase = .idle) (h : hostStep s = .next t) :
    (s.hostOps = [] ∧ t = s) ∨
    (∃ time w rest, s.hostOps = .render time w :: rest ∧ t = render time w (setHostOps rest s)) ∨
    (∃ time rest, s.hostOps = .activity time :: rest ∧ t = activity time (setHostOps rest s)) ∨
    (∃ rest, s.hostOps = .rotation :: rest ∧ t = rotation (setHostOps rest s)) := by
  unfold hostStep at h
  rcases hops : s.hostOps with _ | ⟨op, rest⟩
  · rw [hops] at h; cases h; exact .inl ⟨rfl, rfl⟩
  · simp only [hops, invoke, setHostOps_phase, hp] at h
    cases op with
    | render time w => cases h; exact .inr (.inl ⟨time, w, rest, rfl, rfl⟩)
    | activity time => cases h; exact .inr (.inr (.inl ⟨time, rest, rfl, rfl⟩))
    | rotation => cases h; exact .inr (.inr (.inr ⟨rest, rfl, rfl⟩))

/-- A segment that answers a next state: the first case of `exec_segment_cases`. -/
theorem exec_segment_next {x : Instr} {s t : State} (hpos : x.position = .segment) (h : exec x s = .next t) :
    SelectorSame s t ∧ t.phase = s.phase ∧ t.L = s.L ∧ t.i = s.i + BitVec.ofNat 9 x.size ∧
      t.cursor = s.cursor + BitVec.ofNat 16 x.expand.length ∧
      ∃ events, t.trace = s.trace ++ events ∧ (writePositions events).length = x.expand.length := by
  rcases exec_segment_cases s x hpos with ⟨u, events, hu, hsame, hph, hL, hi, hc, htr, hwr, -⟩ | ⟨_, _, _, _, -, hf⟩
  · rw [hu] at h; cases h
    exact ⟨hsame, hph, hL, hi, hc, events, htr, hwr⟩
  · rw [hf] at h; cases h

/-- The header item as the start of a decode: what it writes of the cursors, the canvas and the trace
(40_decoder_segments.md R91). -/
theorem exec_hdr_next {l : Byte} {s t : State} (h : exec (.hdr l) s = .next t) :
    SelectorSame s t ∧ t.i = 1 ∧ t.cursor = 0 ∧ t.canvas = s.canvas ∧ t.trace = s.trace ++ [.fr 0 l] := by
  cases h
  refine ⟨?_, rfl, rfl, ?_, rfl⟩
  · constructor <;> simp
  · simp

/-! ### The cursors at a segment boundary -/

/-- A decode starts with its cursors in range. -/
theorem cursorsInRange_start {s : State} (hi : s.i = 1) (hc : s.cursor = 0) : CursorsInRange s := by
  constructor <;> simp [hi, hc]

/-- The write cursor moves by a segment's output without wrapping (10_state.md R25). -/
theorem cursor_toNat_segment {x : Instr} {s t : State} (hpos : x.position = .segment) (hwf : x.wf = true)
    (hs : s.cursor.toNat ≤ 16129) (hc : t.cursor = s.cursor + BitVec.ofNat 16 x.expand.length) :
    t.cursor.toNat = s.cursor.toNat + x.expand.length := by
  obtain ⟨hlen, -⟩ := segment_bounds hpos hwf
  rw [hc, BitVec.toNat_add, BitVec.toNat_ofNat]
  omega

/-- The read cursor moves by a segment's length without wrapping (10_state.md R24). -/
theorem i_toNat_segment {x : Instr} {s t : State} (hpos : x.position = .segment) (hwf : x.wf = true)
    (hs : s.i.toNat < s.L.toNat) (hi : t.i = s.i + BitVec.ofNat 9 x.size) : t.i.toNat = s.i.toNat + x.size := by
  obtain ⟨-, -, hsize, -⟩ := segment_bounds hpos hwf
  have := s.L.isLt
  rw [hi, BitVec.toNat_add, BitVec.toNat_ofNat]
  omega

/-- One segment keeps the cursors in range: it starts below 255, and a pair of frame bytes yields at most 127 writes. -/
theorem CursorsInRange.segment {x : Instr} {s t : State} (h : CursorsInRange s) (hpos : x.position = .segment)
    (hwf : x.wf = true) (hl : s.i.toNat < s.L.toNat) (hi : t.i = s.i + BitVec.ofNat 9 x.size)
    (hc : t.cursor = s.cursor + BitVec.ofNat 16 x.expand.length)
    (hcanvas : t.cursor.toNat ≤ t.params.canvasBytes) : CursorsInRange t := by
  have hcur := cursor_toNat_segment hpos hwf h.cursor_le hc
  have hread := i_toNat_segment hpos hwf hl hi
  have hL := s.L.isLt
  obtain ⟨hlen, hsize, hsize', hempty⟩ := segment_bounds hpos hwf
  obtain ⟨hi1, -, hhalf, -, -⟩ := h
  exact ⟨by omega, by omega, by omega, by omega, hcanvas⟩

/-! ### The canvas -/

/-- The canvas part of the invariant while a segment runs: canonical form, nothing beyond the canvas, and the write
cursor at most at its end (20_memory.md R56). -/
structure CanvasFits (s : State) : Prop where
  wf : Memory.wf s.canvas = true
  below : Memory.below s.params.canvasBytes s.canvas = true
  cursor_le : s.cursor.toNat ≤ s.params.canvasBytes

theorem CanvasFits.congr {s t : State} (h : CanvasFits s) (hcanvas : t.canvas = s.canvas)
    (hparams : t.params = s.params) (hcursor : t.cursor = s.cursor) : CanvasFits t :=
  ⟨hcanvas ▸ h.wf, by rw [hparams, hcanvas]; exact h.below, by rw [hparams, hcursor]; exact h.cursor_le⟩

/-- A `SinkWrite` that is no fault keeps the canvas part: even a cursor that wrapped would be 0. -/
theorem sinkWrite_canvasFits {v : Byte} {s t : State} (h : CanvasFits s) (hw : sinkWrite v s = .next t) :
    CanvasFits t := by
  rcases sinkWrite_cases v s with ⟨hlt, hput⟩ | ⟨-, hf⟩
  · rw [hput] at hw; cases hw
    have hcursor : (s.cursor + 1).toNat ≤ s.cursor.toNat + 1 := by
      rw [BitVec.toNat_add]; exact Nat.mod_le _ _
    exact ⟨Memory.write_wf _ _ _ h.wf, Memory.write_below _ _ _ _ h.below hlt, hcursor.trans hlt⟩
  · rw [hf] at hw; cases hw

/-- What comes before a part that answered a next state answered one too. -/
theorem andThen_eq_next {r : Result} {k : State → Result} {t : State} (h : andThen r k = .next t) :
    ∃ u, r = .next u ∧ k u = .next t := by
  cases r with
  | next u => exact ⟨u, rfl, h⟩
  | fault f => cases h
  | refused q => cases h

theorem repeatFill_canvasFits {k : Nat} {v : Byte} {s t : State} (h : CanvasFits s)
    (hr : repeatFill k v s = .next t) : CanvasFits t := by
  induction k generalizing s with
  | zero => cases hr; exact h
  | succ k ih =>
    obtain ⟨u, hw, hrest⟩ := andThen_eq_next hr
    exact ih (sinkWrite_canvasFits h hw) hrest

theorem copyLiterals_canvasFits {bytes : List Byte} {s t : State} (h : CanvasFits s)
    (hr : copyLiterals bytes s = .next t) : CanvasFits t := by
  induction bytes generalizing s with
  | nil => cases hr; exact h
  | cons b rest ih =>
    obtain ⟨u, hw, hrest⟩ := andThen_eq_next hr
    have hread : CanvasFits (readValue b s) := h.congr (by simp) (by simp) (by simp)
    exact ih (sinkWrite_canvasFits hread hw) hrest

/-- A segment that does not fault keeps the canvas part: the registers its fetch loads are no part of it. -/
theorem execSegment_canvasFits {x : Instr} {s t : State} (h : CanvasFits s) (hpos : x.position = .segment)
    (hx : exec x s = .next t) : CanvasFits t := by
  cases x with
  | hdr l => cases hpos
  | lit n bytes => exact copyLiterals_canvasFits (h.congr (by simp) (by simp) (by simp)) hx
  | rep n v => exact repeatFill_canvasFits (h.congr (by simp) (by simp) (by simp)) hx

theorem Inv.canvasFits {s : State} (h : Inv s) (hp : s.phase = .segment) : CanvasFits s :=
  ⟨h.canvas_wf, h.canvas_below, (h.cursors hp).cursor_le_canvas⟩

/-! ### The registers the Decoder does not write -/

/-- The registers, the parameters and the host operations that no step of a decode in progress writes: `SelectorSame`
without `hostCalls`, to which the end of a decode appends RENDER's return (41_selector.md R118). -/
structure HostSideSame (s t : State) : Prop where
  params : t.params = s.params
  base : t.base = s.base
  idleIdx : t.idleIdx = s.idleIdx
  tapIdx : t.tapIdx = s.tapIdx
  lastTick : t.lastTick = s.lastTick
  lastWpm : t.lastWpm = s.lastWpm
  activityTs : t.activityTs = s.activityTs
  hostOps : t.hostOps = s.hostOps

theorem SelectorSame.hostSideSame {s t : State} (h : SelectorSame s t) : HostSideSame s t :=
  ⟨h.params, h.base, h.idleIdx, h.tapIdx, h.lastTick, h.lastWpm, h.activityTs, h.hostOps⟩

theorem finishDecode_hostSideSame (s : State) : HostSideSame s (finishDecode s) := by constructor <;> simp

/-- While a decode is in progress, no step writes the host's side of the state (70_reset_and_hazards.md R166). -/
theorem step_hostSideSame {s t : State} (hp : s.phase ≠ .idle) (h : step s = .next t) : HostSideSame s t := by
  rcases step_next_cases h with ⟨hidle, -⟩ | ⟨-, hx⟩ | ⟨-, -, x, hpos, -, hx⟩ | ⟨-, -, rfl⟩
  · exact absurd hidle hp
  · exact (exec_hdr_next hx).1.hostSideSame
  · exact (exec_segment_next hpos hx).1.hostSideSame
  · exact finishDecode_hostSideSame s

/-- Where the host's side of the state is unchanged, the invariant is about the canvas and the cursors alone. -/
theorem Inv.of_hostSideSame {s t : State} (h : Inv s) (hsame : HostSideSame s t) (hwf : Memory.wf t.canvas = true)
    (hbelow : Memory.below t.params.canvasBytes t.canvas = true) (hcursors : t.phase = .segment → CursorsInRange t) :
    Inv t := by
  obtain ⟨hparams, hbase, hidle, htap, htick, hwpm, hact, -⟩ := hsame
  refine ⟨?_, hwf, hbelow, ?_, ?_, ?_, ?_, ?_, ?_, hcursors⟩
  · rw [hparams]; exact h.params_ok
  · rw [hparams, htap]; exact h.tapIdx_lt
  · rw [hparams, hidle]; exact h.idleIdx_lt
  · rw [hparams, hact]; exact h.activityTs_fits
  · rw [hparams, htick]; exact h.lastTick_fits
  · rw [hparams, hwpm]; exact h.lastWpm_fits
  · rw [hparams, hbase]; exact h.base_fits

/-! ### The host operations and the invariant -/

/-- With no decode in progress the cursors are not constrained (10_state.md R45). -/
theorem cursors_of_idle {s : State} (hp : s.phase = .idle) : s.phase = .segment → CursorsInRange s := by
  simp [hp]

section
variable {s : State} (h : Inv s) (hp : s.phase = .idle)
include h

theorem inv_decodeFrame (pose : Pose) (idx : Nat) : Inv (decodeFrame pose idx s) :=
  { h with
    base_fits := Nat.mod_mod _ _
    cursors := by simp }

theorem inv_powerOff : Inv (powerOff s) := { h with cursors := by simp }

include hp

theorem inv_setHostOps (ops : List HostOp) : Inv (setHostOps ops s) :=
  { h with cursors := cursors_of_idle hp }

theorem inv_activity (time : Nat) : Inv (activity time s) :=
  { h with
    activityTs_fits := timestamp_idem _ _
    cursors := cursors_of_idle hp }

theorem inv_rotation : Inv (rotation s) := { h with cursors := cursors_of_idle hp }

theorem inv_recordTick {now : Nat} (hnow : timestamp s.params.tw now = now) : Inv (recordTick now s) :=
  { h with
    lastTick_fits := hnow
    cursors := cursors_of_idle hp }

theorem inv_takeWpmSample {now : Nat} (w : Nat) (hnow : timestamp s.params.tw now = now) :
    Inv (takeWpmSample now w s) :=
  { h with
    activityTs_fits := by
      rw [takeWpmSample_params, takeWpmSample_activityTs]
      split
      · exact hnow
      · exact h.activityTs_fits
    lastWpm_fits := Nat.mod_mod _ _
    cursors := cursors_of_idle hp }

theorem inv_activityStage {now : Nat} (w : Nat) (hnow : timestamp s.params.tw now = now) :
    Inv (activityStage now w s) := by
  unfold activityStage
  split
  · exact h
  · exact inv_takeWpmSample h hp w hnow

/-- Advancing the tap index keeps it inside the tap set (10_state.md R32). -/
theorem inv_tickTap : Inv (tickTap s) := by
  have hlt : (nextTapIdx s).toNat < s.params.tapFrames := by
    rw [nextTapIdx_toNat s h]; exact Nat.mod_lt _ h.params_ok.tapFrames_pos
  have hadv : Inv { s with tapIdx := nextTapIdx s } :=
    { h with
      tapIdx_lt := hlt
      cursors := cursors_of_idle hp }
  exact inv_decodeFrame hadv .tap _

/-- Advancing the idle index keeps it inside the idle set (10_state.md R31). -/
theorem inv_tickIdle : Inv (tickIdle s) := by
  have hlt : (nextIdleIdx s).toNat < s.params.idleFrames := by
    rw [nextIdleIdx_toNat s h]; exact Nat.mod_lt _ h.params_ok.idleFrames_pos
  have hadv : Inv { s with idleIdx := nextIdleIdx s } :=
    { h with
      idleIdx_lt := hlt
      cursors := cursors_of_idle hp }
  exact inv_decodeFrame hadv .idle _

theorem inv_selectFrame {now : Nat} (hnow : timestamp s.params.tw now = now) : Inv (selectFrame now s) := by
  have htick := inv_recordTick h hp hnow
  unfold selectFrame
  split
  · exact inv_powerOff h
  · exact inv_tickTap htick hp
  · exact inv_decodeFrame htick .paws 0
  · exact inv_tickIdle htick hp

/-- RENDER up to the start of its decode keeps the invariant (41_selector.md R110). -/
theorem inv_render (time w : Nat) : Inv (render time w s) := by
  have hnow := timestamp_idem s.params.tw time
  exact inv_selectFrame (inv_activityStage h hp w hnow) (by simpa using hp) (by simpa using hnow)

theorem inv_hostStep {t : State} (hs : hostStep s = .next t) : Inv t := by
  rcases hostStep_next_cases hp hs with ⟨-, rfl⟩ | ⟨time, w, rest, -, rfl⟩ | ⟨time, rest, -, rfl⟩ | ⟨rest, -, rfl⟩
  · exact h
  · exact inv_render (inv_setHostOps h hp rest) hp time w
  · exact inv_activity (inv_setHostOps h hp rest) hp time
  · exact inv_rotation (inv_setHostOps h hp rest) hp

end

/-- Settles O23, by what the step was: the host operations, the header and the end of a decode leave the canvas alone,
and a segment keeps the cursors in range because it did not fault. -/
theorem stepKeepsInvariant : Obligations.StepKeepsInvariant := by
  intro s t h hs
  rcases step_next_cases hs with ⟨hp, hh⟩ | ⟨hp, hx⟩ | ⟨hp, hl, x, hpos, hwf, hx⟩ | ⟨hp, -, rfl⟩
  · exact inv_hostStep h hp hh
  · obtain ⟨hsame, hi, hc, hcanvas, -⟩ := exec_hdr_next hx
    refine h.of_hostSideSame hsame.hostSideSame ?_ ?_ fun _ => cursorsInRange_start hi hc
    · rw [hcanvas]; exact h.canvas_wf
    · rw [hcanvas, hsame.params]; exact h.canvas_below
  · obtain ⟨hsame, -, -, hi, hc, -⟩ := exec_segment_next hpos hx
    have hfits := execSegment_canvasFits (h.canvasFits hp) hpos hx
    exact h.of_hostSideSame hsame.hostSideSame hfits.wf hfits.below
      fun _ => (h.cursors hp).segment hpos hwf hl hi hc hfits.cursor_le
  · exact h.of_hostSideSame (finishDecode_hostSideSame s) (by simpa using h.canvas_wf)
      (by simpa using h.canvas_below) (by simp)

/-- Settles O24: at reset every width-limited register is 0, the canvas is empty, and the installation has a canvas. -/
theorem resetMeetsInvariant : Obligations.ResetMeetsInvariant := by
  have htime : timestamp State.reset.params.tw 0 = 0 := by
    unfold timestamp; split <;> simp
  exact {
    params_ok := ⟨by decide, by decide, by decide, by decide, Config.installation.canvas_pos, rfl, rfl⟩
    canvas_wf := rfl
    canvas_below := rfl
    tapIdx_lt := by decide
    idleIdx_lt := by decide
    activityTs_fits := htime
    lastTick_fits := htime
    lastWpm_fits := rfl
    base_fits := Nat.zero_mod _
    cursors := cursors_of_idle rfl }

end Sys2Proof.Machine
end

section
/-!
PROOFS. Registers along a run: the write cursor as a counter of writes (10_state.md R28), the times the block holds
against the host's pending ones (R37), and the registers at reset (R43 to R46).
-/

namespace Sys2Proof.Machine

/-! ### The write cursor -/

@[simp] theorem writePositions_nil : writePositions [] = [] := rfl

/-- A step away from a header moves the write cursor by the number of writes it appends: none outside a decode, and at
most one segment's output of 127 inside. -/
theorem step_cursor_counts_writes {s t : State} (hp : s.phase ≠ .header) (h : step s = .next t) :
    ∃ events, t.trace = s.trace ++ events ∧
      t.cursor = s.cursor + BitVec.ofNat 16 (writePositions events).length ∧
      (events = [] ∨ s.phase = .segment ∧ (writePositions events).length ≤ 127) := by
  rcases step_next_cases h with ⟨hidle, hh⟩ | ⟨hhdr, -⟩ | ⟨hseg, -, x, hpos, hwf, hx⟩ | ⟨-, -, rfl⟩
  · obtain ⟨u, hu, -, htr, -, -, hc⟩ := hostStep_next s hidle
    rw [hu] at hh; cases hh
    exact ⟨[], by rw [htr, List.append_nil], by simp [hc], .inl rfl⟩
  · exact absurd hhdr hp
  · obtain ⟨-, -, -, -, hc, events, htr, hwr⟩ := exec_segment_next hpos hx
    exact ⟨events, htr, by rw [hwr, hc], .inr ⟨hseg, by rw [hwr]; exact (segment_bounds hpos hwf).1⟩⟩
  · exact ⟨[], by simp, by simp, .inl rfl⟩

/-- Settles O31: by `sinkWrite_cases` for one write, by the header's own meaning at a decode's start, and by
`step_cursor_counts_writes` for every other step; the invariant's bound on the cursor rules the wrap out. -/
theorem writeCursorIsSequential : Obligations.WriteCursorIsSequential := by
  refine ⟨fun v s t hw => ?_, fun s t hp hs => ?_, fun s t hp hs => ?_⟩
  · rcases sinkWrite_cases v s with ⟨-, hput⟩ | ⟨-, hf⟩
    · rw [hput] at hw; cases hw; exact ⟨rfl, rfl⟩
    · rw [hf] at hw; cases hw
  · rw [step_header s hp] at hs
    obtain ⟨-, -, hc, -, htr⟩ := exec_hdr_next hs
    exact ⟨hc, _, htr, rfl⟩
  · obtain ⟨events, htr, hc, hwrites⟩ := step_cursor_counts_writes hp hs
    refine ⟨events, htr, hc, fun h => ?_⟩
    rcases hwrites with rfl | ⟨hseg, hle⟩
    · simp [hc]
    · have := (h.cursors hseg).cursor_le
      rw [hc, BitVec.toNat_add, BitVec.toNat_ofNat]
      omega

/-! ### The times the block holds -/

@[simp] theorem hostTimes_render (time w : Nat) (ops : List HostOp) :
    hostTimes (.render time w :: ops) = time :: hostTimes ops := rfl

@[simp] theorem hostTimes_activity (time : Nat) (ops : List HostOp) :
    hostTimes (.activity time :: ops) = time :: hostTimes ops := rfl

@[simp] theorem hostTimes_rotation (ops : List HostOp) : hostTimes (.rotation :: ops) = hostTimes ops := rfl

/-- The Activity Timestamp after RENDER's first stages is the one it found or the present (41_selector.md R111). -/
theorem render_activityTs (time w : Nat) (s : State) :
    (render time w s).activityTs = s.activityTs ∨ (render time w s).activityTs = timestamp s.params.tw time := by
  obtain ⟨hact, -⟩ := activityStage_eq (timestamp s.params.tw time) w s
  rw [render, (selectFrame_keeps _ _).1, hact]
  split
  · exact .inr rfl
  · exact .inl rfl

/-- `last_tick` after the power decision is the one before, on a power-off, or the present (10_state.md R33). -/
theorem selectFrame_lastTick (now : Nat) (s : State) :
    (selectFrame now s).lastTick = s.lastTick ∨ (selectFrame now s).lastTick = now := by
  unfold selectFrame
  split
  · exact .inl rfl
  all_goals exact .inr (by simp)

theorem render_lastTick (time w : Nat) (s : State) :
    (render time w s).lastTick = s.lastTick ∨ (render time w s).lastTick = timestamp s.params.tw time := by
  simpa [render] using selectFrame_lastTick (timestamp s.params.tw time) (activityStage _ w s)

@[simp] theorem render_params (time w : Nat) (s : State) : (render time w s).params = s.params := by
  obtain ⟨-, -, hparams, -⟩ :=
    selectFrame_keeps (timestamp s.params.tw time) (activityStage (timestamp s.params.tw time) w s)
  rw [render, hparams, activityStage_params]

@[simp] theorem render_hostOps (time w : Nat) (s : State) : (render time w s).hostOps = s.hostOps := by
  obtain ⟨-, -, -, hops, -⟩ :=
    selectFrame_keeps (timestamp s.params.tw time) (activityStage (timestamp s.params.tw time) w s)
  rw [render, hops, activityStage_hostOps]

/-- An unbounded timestamp is the host's time itself (00_scope.md R8). -/
theorem timestamp_unbounded {tw : Option Nat} (h : tw = none) (time : Nat) : timestamp tw time = time := by
  rw [h]; rfl

/-- The duty speaks of the pending times and of the two times the block holds only. -/
theorem MonotonicHost.congr {s t : State} (h : MonotonicHost s) (hparams : t.params = s.params)
    (htimes : hostTimes t.hostOps = hostTimes s.hostOps) (hact : t.activityTs = s.activityTs)
    (htick : t.lastTick = s.lastTick) : MonotonicHost t :=
  ⟨by rw [hparams]; exact h.unbounded, by rw [htimes]; exact h.rising,
    by rw [htimes, hact]; exact h.after_activity, by rw [htimes, htick]; exact h.after_tick⟩

/-- Taking the next pending time keeps the duty, whether or not the block stores it: the times still pending are at or
after it (70_reset_and_hazards.md R169). -/
theorem MonotonicHost.advance {s t : State} {now : Nat} (h : MonotonicHost s) (hparams : t.params = s.params)
    (htimes : hostTimes s.hostOps = now :: hostTimes t.hostOps)
    (hact : t.activityTs = s.activityTs ∨ t.activityTs = now) (htick : t.lastTick = s.lastTick ∨ t.lastTick = now) :
    MonotonicHost t := by
  obtain ⟨hunbounded, hrising, hafterAct, hafterTick⟩ := h
  rw [htimes] at hrising hafterAct hafterTick
  obtain ⟨hnow, hrest⟩ := List.pairwise_cons.1 hrising
  refine ⟨by rw [hparams]; exact hunbounded, hrest, fun u hu => ?_, fun u hu => ?_⟩
  · rcases hact with e | e <;> rw [e]
    · exact hafterAct u (List.mem_cons_of_mem _ hu)
    · exact hnow u hu
  · rcases htick with e | e <;> rw [e]
    · exact hafterTick u (List.mem_cons_of_mem _ hu)
    · exact hnow u hu

/-- Settles O32: RENDER and ACTIVITY take the next pending time and may store it, and no other step takes or stores a
time. -/
theorem monotonicHostStaysAhead : Obligations.MonotonicHostStaysAhead := by
  intro s t h hs
  by_cases hp : s.phase = .idle
  · rw [step_idle s hp] at hs
    rcases hostStep_next_cases hp hs with ⟨-, rfl⟩ | ⟨time, w, rest, hops, rfl⟩ | ⟨time, rest, hops, rfl⟩ |
      ⟨rest, hops, rfl⟩
    · exact h
    · have hnow := timestamp_unbounded h.unbounded time
      have hact := render_activityTs time w (setHostOps rest s)
      have htick := render_lastTick time w (setHostOps rest s)
      rw [setHostOps_params, hnow] at hact htick
      exact h.advance (by simp) (by simp [hops]) hact htick
    · exact h.advance (by simp) (by simp [hops]) (.inr (timestamp_unbounded h.unbounded time)) (.inl rfl)
    · exact h.congr rfl (by simp [hops]) rfl rfl
  · have hsame := step_hostSideSame hp hs
    exact h.congr hsame.params (by rw [hsame.hostOps]) hsame.activityTs hsame.lastTick

/-! ### Reset -/

/-- Settles O34: the registers named are fields of `State.reset`, and no position of an empty canvas has a value. -/
theorem resetState : Obligations.ResetState := by
  refine ⟨rfl, rfl, rfl, rfl, rfl, rfl, fun p => ?_⟩
  rw [canvasRead, State.reset, Memory.read]

end Sys2Proof.Machine
end

section
/-!
PROOFS. The two memories of a decode. The Frame Store is only read: what is fetched is always one whole item, and no step
changes what a fetch sees (20_memory.md R51, R64). The canvas is only written, at the write cursor, by a decode in progress
(R54, R56); the host's side of the state is apart from both (R50, R61).
-/

namespace Sys2Proof.Machine

/-! ### The Frame Store: what is fetched -/

/-- The decoder drops no bit: the item answered, encoded again, and the rest are the bytes given (30_encoding.md R73 to
R76). -/
theorem encode_of_decode {pos : Position} {bytes rest : List Byte} {x : Instr} (h : decode pos bytes = .ok x rest) :
    x.position = pos ∧ encode x ++ rest = bytes := by
  cases bytes with
  | nil => cases pos <;> cases h
  | cons c tail =>
    cases pos with
    | header => obtain ⟨rfl, rfl⟩ := Decoded.ok.inj h; exact ⟨rfl, rfl⟩
    | segment =>
      simp only [decode] at h
      split at h
      · rename_i hlit
        split at h
        · obtain ⟨rfl, rfl⟩ := Decoded.ok.inj h
          exact ⟨rfl, by simp [encode, litControl_of_isLiteral c hlit]⟩
        · cases h
      · rename_i hrep
        have hcontrol := repControl_of_not_isLiteral c (Bool.eq_false_iff.2 hrep)
        cases tail with
        | nil => cases h
        | cons v tail => obtain ⟨rfl, rfl⟩ := Decoded.ok.inj h; exact ⟨rfl, by simp [encode, hcontrol]⟩

/-- What is fetched at either position is one item, with nothing left over (30_encoding.md R76, R85). -/
theorem decode_fetchBytes (s : State) (pos : Position) : ∃ x, decode pos (fetchBytes s pos) = .ok x [] := by
  cases pos with
  | header => exact ⟨.hdr (frameByte s 0), rfl⟩
  | segment =>
    obtain ⟨x, hx, -⟩ := decode_fetchBytes_segment s
    exact ⟨x, hx⟩

/-- Frame bytes follow one another from the offset they start at (20_memory.md R51). -/
theorem getElem_frameBytes (s : State) (off count k : Nat) (h : k < (frameBytes s off count).length) :
    (frameBytes s off count)[k] = frameByte s (off + k) := by
  simp [frameBytes]

/-- Settles O7: the fetched bytes decode, what decodes is well-formed and encodes back, and the fetch is a run of frame
bytes from offset 0 or from the read cursor. -/
theorem fetchedBytesAlwaysDecode : Obligations.FetchedBytesAlwaysDecode := by
  intro s pos
  obtain ⟨x, hx⟩ := decode_fetchBytes s pos
  obtain ⟨hpos, henc⟩ := encode_of_decode hx
  rw [List.append_nil] at henc
  refine ⟨x, hx, decode_wf hx, hpos, henc, fun k hk => ?_⟩
  rw [List.getElem_of_eq henc hk]
  cases pos with
  | header => exact getElem_frameBytes s 0 _ k _
  | segment => exact getElem_frameBytes s s.i.toNat _ k _

/-! ### The Frame Store: no step changes it -/

/-- Inside the Frame Store a fetch reads the stored byte, a function of the parameters and `base` alone. -/
theorem frameByte_of_lt (s : State) (off : Nat) (h : s.base + off < s.params.romSize) :
    frameByte s off = storeByte s.params (s.base + off) := by
  have hin : outsideStore s off = false := decide_eq_false (Nat.not_le.2 h)
  rw [frameByte, hin, if_neg Bool.false_ne_true, frameAddress]

/-- Settles O48: no step of a decode writes the parameters or `base`, of which alone an in-store frame byte is made. -/
theorem frameBytesNeverChange : Obligations.FrameBytesNeverChange := by
  intro s t off hs hp hin
  have hsame := step_hostSideSame hp hs
  rw [frameByte_of_lt s off hin, frameByte_of_lt t off (by rw [hsame.params, hsame.base]; exact hin), hsame.params,
    hsame.base]

/-! ### The canvas -/

/-- Settles O47: on the canvas `SinkWrite` is `putByte`. -/
theorem sinkWriteSetsItsPosition : Obligations.SinkWriteSetsItsPosition := by
  intro v s hlt
  refine ⟨putByte v s, sinkWrite_next v s hlt, rfl, rfl, ?_, fun p hp => ?_⟩
  · rw [canvasRead_putByte, if_pos rfl]
  · rw [canvasRead_putByte, if_neg hp]

/-- What an item writes beside the Decoder's registers: nothing of the host's side, the header included. -/
theorem exec_selectorSame {x : Instr} {s t : State} (h : exec x s = .next t) : SelectorSame s t := by
  cases x with
  | hdr l => exact (exec_hdr_next h).1
  | lit n bytes => exact (exec_segment_next rfl h).1
  | rep n v => exact (exec_segment_next rfl h).1

/-- An item leaves every canvas position alone that its output does not go to. The header has no output; a segment's
fetch writes neither the canvas nor the write cursor, so its loop starts at the cursor the item found. -/
theorem exec_canvasRead {x : Instr} {s t : State} (h : exec x s = .next t) {p : Nat}
    (hp : ∀ k, k < x.expand.length → (s.cursor + BitVec.ofNat 16 k).toNat ≠ p) : canvasRead t p = canvasRead s p := by
  cases x with
  | hdr l =>
    obtain ⟨-, -, -, hcanvas, -⟩ := exec_hdr_next h
    rw [canvasRead, hcanvas, canvasRead]
  | lit n bytes =>
    rw [copyLiterals_canvas bytes _ t h p (by simpa [Instr.expand] using hp)]
    simp [canvasRead]
  | rep n v =>
    rw [repeatFill_canvas n.toNat v _ t h p (by simpa [Instr.expand] using hp)]
    simp [canvasRead]

/-- Settles O18: by `exec_selectorSame` and `exec_canvasRead`, a case for each item. -/
theorem itemsChangeOnlyDecoderAndOutput : Obligations.ItemsChangeOnlyDecoderAndOutput :=
  fun _ _ _ hx => ⟨exec_selectorSame hx, fun _ hp => exec_canvasRead hx hp⟩

/-! ### The host's side and the Decoder's -/

/-- Settles O29: a step of a decode keeps the host's side (`step_hostSideSame`); a host step keeps the trace and the
canvas (`hostStep_next`). -/
theorem hostAndDecoderNeverOverlap : Obligations.HostAndDecoderNeverOverlap := by
  refine ⟨fun s t hp hs => ?_, fun s t hp hs => ?_⟩
  · obtain ⟨-, -, hidle, htap, htick, hwpm, hact, hops⟩ := step_hostSideSame hp hs
    exact ⟨hops, hidle, htap, htick, hwpm, hact⟩
  · obtain ⟨u, hu, -, htrace, hcanvas, -⟩ := hostStep_next s hp
    rw [step_idle s hp, hu] at hs
    cases hs
    exact ⟨htrace, fun p => by rw [canvasRead, hcanvas, canvasRead]⟩

/-- While a decode is in progress no entry point has a step (70_reset_and_hazards.md R165). -/
theorem invoke_refused (op : HostOp) {s : State} (hp : s.phase ≠ .idle) : invoke op s = .refused .reentrant := by
  cases hphase : s.phase with
  | idle => exact absurd hphase hp
  | header => simp only [invoke, hphase]
  | segment => simp only [invoke, hphase]

/-- No step of a decode starts another: after the header and after a segment the Decoder stands at a segment boundary,
and after the loop test it is idle (40_decoder_segments.md R91, R92). -/
theorem step_phase_ne_header {s t : State} (hp : s.phase ≠ .idle) (h : step s = .next t) : t.phase ≠ .header := by
  rcases step_next_cases h with ⟨hidle, -⟩ | ⟨-, hx⟩ | ⟨hseg, -, x, hpos, -, hx⟩ | ⟨-, -, rfl⟩
  · exact absurd hidle hp
  · cases hx; exact Phase.noConfusion
  · obtain ⟨-, hphase, -⟩ := exec_segment_next hpos hx
    simp [hphase, hseg]
  · simp

/-- Settles O30: by `invoke_refused` for the entry points, and for the steps by `step_phase_ne_header` and
`step_hostSideSame`. -/
theorem reentrantInvocationRefused : Obligations.ReentrantInvocationRefused := by
  refine ⟨fun op s hp => invoke_refused op hp, fun s t hp hs => ?_⟩
  have hsame := step_hostSideSame hp hs
  exact ⟨step_phase_ne_header hp hs, hsame.base, hsame.hostOps⟩

end Sys2Proof.Machine
end

section
/-!
PROOFS. The encoding: an item and its bytes determine each other at either position (30_encoding.md R71 to R76, R81), a
run of segments and its bytes determine each other too (R70), and frames of any other kind are refused at instantiation
(R147).
-/

namespace Sys2Proof.Machine

/-! ### One item -/

@[simp] theorem encode_length (x : Instr) : (encode x).length = x.size := by
  cases x <;> simp [encode, Instr.size, Nat.add_comm]

/-- The decoder undoes the encoder, whatever bytes follow: the control byte gives back the count, and the count gives back
as many bytes as a well-formed literal run carries (30_encoding.md R73 to R76). -/
theorem decode_encode {x : Instr} (hwf : x.wf = true) (rest : List Byte) :
    decode x.position (encode x ++ rest) = .ok x rest := by
  cases x with
  | hdr l => rfl
  | rep n v => simp [encode, Instr.position, decode]
  | lit n bytes =>
    have hlen : bytes.length = n.toNat := by simpa [Instr.wf] using hwf
    simp [encode, Instr.position, decode, ← hlen]

/-- Settles O1. -/
theorem decodeOfEncodeIsTheItem : Obligations.DecodeOfEncodeIsTheItem :=
  fun _ rest hwf => decode_encode hwf rest

/-- Settles O3: by `decode_wf` and `encode_of_decode`, which hold of every answer of the decoder. -/
theorem encodeOfDecodeIsTheBytes : Obligations.EncodeOfDecodeIsTheBytes :=
  fun _ _ _ _ h => ⟨decode_wf h, encode_of_decode h⟩

/-- Bit 7 of a control byte on naturals (30_encoding.md R72). -/
theorem isLiteral_iff (c : Byte) : isLiteral c = true ↔ 128 ≤ c.toNat := by
  refine ⟨fun h => (countField_lit c h).1, fun h => ?_⟩
  by_contra hc
  have := (countField_rep c (Bool.eq_false_iff.2 hc)).1
  omega

/-- Settles O4: bit 7 splits the control bytes at 128, and the low 7 bits are the count on either side. -/
theorem everyControlByteIsAllocated : Obligations.EveryControlByteIsAllocated := by
  refine fun c payload => ⟨rfl, fun hlit hlen => ?_, fun hrep v rest hpayload => ?_⟩
  · have hc := (isLiteral_iff c).2 hlit
    have hcount := (countField_lit c hc).2
    exact ⟨countField c, hcount, by simp [decode, hc, hcount, hlen]⟩
  · have hc : isLiteral c = false := by rw [Bool.eq_false_iff, ne_eq, isLiteral_iff]; omega
    exact ⟨countField c, (countField_rep c hc).2, by simp [decode, hc, hpayload]⟩

/-- Settles O5: six fixed words, each run through the decoder. -/
theorem specWordsDecode : Obligations.SpecWordsDecode := by
  unfold Obligations.SpecWordsDecode
  decide

/-! ### A run of segments -/

@[simp] theorem segmentBytes_nil : segmentBytes [] = [] := rfl

@[simp] theorem segmentBytes_cons (x : Instr) (segs : List Instr) :
    segmentBytes (x :: segs) = encode x ++ segmentBytes segs := List.flatMap_cons

@[simp] theorem outputOf_nil : outputOf [] = [] := rfl

@[simp] theorem outputOf_cons (x : Instr) (segs : List Instr) : outputOf (x :: segs) = x.expand ++ outputOf segs :=
  List.flatMap_cons

theorem isSegment_iff (x : Instr) : x.isSegment = true ↔ x.position = .segment := by simp [Instr.isSegment]

/-- One round of the parser. -/
theorem parseSegments_of_decode {bytes rest : List Byte} {x : Instr} (fuel : Nat)
    (h : decode .segment bytes = .ok x rest) :
    parseSegments (fuel + 1) bytes = (parseSegments fuel rest).map (x :: ·) := by
  cases bytes with
  | nil => cases h
  | cons c tail => simp only [parseSegments, h]

/-- The bytes of a list of segments parse back as that list, with any fuel that reaches the last of them (30_encoding.md
R70): every segment has a byte of its own, so a round of the parser never takes more fuel than bytes. -/
theorem parseSegments_segmentBytes {segs : List Instr} (hsegs : ∀ x ∈ segs, x.isSegment = true ∧ x.wf = true) {fuel : Nat}
    (hfuel : (segmentBytes segs).length ≤ fuel) : parseSegments fuel (segmentBytes segs) = some segs := by
  induction segs generalizing fuel with
  | nil => cases fuel <;> rfl
  | cons x segs ih =>
    obtain ⟨⟨hseg, hwf⟩, hrest⟩ := List.forall_mem_cons.1 hsegs
    have hpos := (isSegment_iff x).1 hseg
    obtain ⟨-, hsize, -⟩ := segment_bounds hpos hwf
    rw [segmentBytes_cons, List.length_append, encode_length] at hfuel
    obtain ⟨k, rfl⟩ : ∃ k, fuel = k + 1 := ⟨fuel - 1, by omega⟩
    have hdecode := decode_encode hwf (segmentBytes segs)
    rw [hpos] at hdecode
    rw [segmentBytes_cons, parseSegments_of_decode k hdecode, ih hrest (by omega), Option.map_some]

/-- Settles O2: the number of bytes is fuel enough. -/
theorem segmentListParsesBack : Obligations.SegmentListParsesBack :=
  fun _ hsegs => parseSegments_segmentBytes hsegs le_rfl

/-- What the parser answers is a list of well-formed segments, whose bytes are the bytes parsed (30_encoding.md R70). -/
theorem segmentBytes_of_parseSegments {fuel : Nat} {bytes : List Byte} {segs : List Instr}
    (h : parseSegments fuel bytes = some segs) :
    segmentBytes segs = bytes ∧ ∀ x ∈ segs, x.isSegment = true ∧ x.wf = true := by
  induction fuel generalizing bytes segs with
  | zero =>
    cases bytes with
    | nil => cases h; exact ⟨rfl, List.forall_mem_nil _⟩
    | cons c tail => cases h
  | succ fuel ih =>
    cases bytes with
    | nil => cases h; exact ⟨rfl, List.forall_mem_nil _⟩
    | cons c tail =>
      cases hd : decode .segment (c :: tail) with
      | bad e => simp [parseSegments, hd] at h
      | ok x rest =>
        rw [parseSegments_of_decode fuel hd, Option.map_eq_some_iff] at h
        obtain ⟨segs, hparse, rfl⟩ := h
        obtain ⟨hbytes, hsegs⟩ := ih hparse
        obtain ⟨hpos, henc⟩ := encode_of_decode hd
        exact ⟨by rw [segmentBytes_cons, hbytes, henc],
          List.forall_mem_cons.2 ⟨⟨(isSegment_iff x).2 hpos, decode_wf hd⟩, hsegs⟩⟩

/-! ### Instantiation -/

/-- The condition of an instantiation, frame by frame (70_reset_and_hazards.md R163). -/
theorem allFramesOk_iff (p : Params) : allFramesOk p = true ↔ ∀ side : Side,
    (∀ k, k < p.idleFrames → wellFormedFrame p (frameTable p side .idle k % 2 ^ p.aw) = true) ∧
    (∀ k, k < p.pawsFrames → wellFormedFrame p (frameTable p side .paws k % 2 ^ p.aw) = true) ∧
    (∀ k, k < p.tapFrames → wellFormedFrame p (frameTable p side .tap k % 2 ^ p.aw) = true) := by
  simp only [allFramesOk, List.all_eq_true, mem_frameBases]
  constructor
  · exact fun h side => ⟨fun k hk => h _ ⟨side, .inl ⟨k, hk, rfl⟩⟩, fun k hk => h _ ⟨side, .inr (.inl ⟨k, hk, rfl⟩)⟩,
      fun k hk => h _ ⟨side, .inr (.inr ⟨k, hk, rfl⟩)⟩⟩
  · rintro h _ ⟨side, hframe⟩
    obtain ⟨hidle, hpaws, htap⟩ := h side
    rcases hframe with ⟨k, hk, rfl⟩ | ⟨k, hk, rfl⟩ | ⟨k, hk, rfl⟩
    · exact hidle k hk
    · exact hpaws k hk
    · exact htap k hk

/-- Settles O50: the test of `instantiate` is the condition of `allFramesOk_iff`, which one bad frame falsifies. -/
theorem instantiationRefusesBadFrames : Obligations.InstantiationRefusesBadFrames := by
  refine fun p => ⟨fun h => if_pos ((allFramesOk_iff p).2 h), fun side pose k hk hbad => if_neg fun hall => ?_⟩
  obtain ⟨hidle, hpaws, htap⟩ := (allFramesOk_iff p).1 hall side
  have hgood : wellFormedFrame p (frameTable p side pose k % 2 ^ p.aw) = true := by
    cases pose with
    | idle => exact hidle k hk
    | paws => exact hpaws k hk
    | tap => exact htap k hk
  exact Bool.false_ne_true (hbad.symm.trans hgood)

end Sys2Proof.Machine
end

section
/-!
PROOFS. One segment of a frame in place: what it reads, writes and appends to the trace when its bytes lie below `L` and
inside the Frame Store and its output stays on the canvas (40_decoder_segments.md R93 to R95). The two segments of count 0
need none of that (30_encoding.md R77, R78).
-/

namespace Sys2Proof.Machine

/-! ### Count 0 -/

/-- Settles O14: with no literal byte the loop does not run, and what is left is the fetch. -/
theorem litOfCountZeroOnlyMovesOn : Obligations.LitOfCountZeroOnlyMovesOn := by
  intro s _ _
  refine ⟨_, rfl, by simp, by simp, by simp, by simp, by simp [litControl], rfl, by simp [litControl], by simp, by simp, ?_⟩
  constructor <;> simp

/-- Settles O17: with count 0 the loop does not run, and what is left is the fetch and the read of the fill byte. -/
theorem repOfCountZeroReadsItsFillOnly : Obligations.RepOfCountZeroReadsItsFillOnly := by
  intro v s _ _
  refine ⟨_, rfl, rfl, by simp [BitVec.add_assoc], by simp, by simp, rfl, by simp [repControl], by simp,
    by simp [repControl], by simp, by simp, ?_⟩
  constructor <;> simp

/-! ### Cursors as numbers -/

theorem toNat_add_ofNat {w : Nat} (x : BitVec w) (k : Nat) (h : x.toNat + k < 2 ^ w) :
    (x + BitVec.ofNat w k).toNat = x.toNat + k := by
  rw [BitVec.toNat_add, BitVec.toNat_ofNat, Nat.add_mod_mod, Nat.mod_eq_of_lt h]

theorem eq_add_ofNat {w : Nat} {x y : BitVec w} {k : Nat} (h : y.toNat = x.toNat + k) : y = x + BitVec.ofNat w k := by
  apply BitVec.eq_of_toNat_eq
  rw [toNat_add_ofNat x k (h ▸ y.isLt), h]

/-! ### The events of items -/

/-- The events of one item read at offset `i` that writes from position `p` up (40_decoder_segments.md R91, R94, R95). -/
def itemEvents (i : ReadCursor) (p : WriteCursor) : Instr → List Event
  | .hdr l => [.fr i l]
  | .lit n bytes => .fr i (litControl n) :: literalEvents (i + 1) p bytes
  | .rep n v => .fr i (repControl n) :: .fr (i + 1) v :: fillEvents p v n.toNat

/-- The events of items that follow one another, the first at offset `i` and writing from position `p` up. -/
def runEvents : ReadCursor → WriteCursor → List Instr → List Event
  | _, _, [] => []
  | i, p, x :: segs =>
    itemEvents i p x ++ runEvents (i + BitVec.ofNat 9 x.size) (p + BitVec.ofNat 16 x.expand.length) segs

@[simp] theorem readOffsets_nil : readOffsets [] = [] := rfl

@[simp] theorem readOffsets_fr (i : ReadCursor) (b : Byte) (events : List Event) :
    readOffsets (.fr i b :: events) = i.toNat :: readOffsets events := rfl

@[simp] theorem readOffsets_sw (v : Byte) (p : WriteCursor) (events : List Event) :
    readOffsets (.sw v p :: events) = readOffsets events := rfl

@[simp] theorem readOffsets_append (events later : List Event) :
    readOffsets (events ++ later) = readOffsets events ++ readOffsets later := List.filterMap_append

@[simp] theorem writtenBytes_nil : writtenBytes [] = [] := rfl

@[simp] theorem writtenBytes_fr (i : ReadCursor) (b : Byte) (events : List Event) :
    writtenBytes (.fr i b :: events) = writtenBytes events := rfl

@[simp] theorem writtenBytes_sw (v : Byte) (p : WriteCursor) (events : List Event) :
    writtenBytes (.sw v p :: events) = v :: writtenBytes events := rfl

@[simp] theorem writtenBytes_append (events later : List Event) :
    writtenBytes (events ++ later) = writtenBytes events ++ writtenBytes later := List.filterMap_append

@[simp] theorem writePositions_append (events later : List Event) :
    writePositions (events ++ later) = writePositions events ++ writePositions later := List.filterMap_append

theorem readOffsets_literalEvents (bytes : List Byte) (i : ReadCursor) (p : WriteCursor)
    (h : i.toNat + bytes.length < 512) :
    readOffsets (literalEvents i p bytes) = List.range' i.toNat bytes.length := by
  induction bytes generalizing i p with
  | nil => rfl
  | cons b rest ih =>
    rw [List.length_cons] at h
    have hi := toNat_succ9 i (by omega)
    rw [literalEvents, readOffsets_fr, readOffsets_sw, ih (i + 1) (p + 1) (by omega), hi, List.length_cons,
      List.range'_succ]

theorem writePositions_literalEvents (bytes : List Byte) (i : ReadCursor) (p : WriteCursor)
    (h : p.toNat + bytes.length < 65536) :
    writePositions (literalEvents i p bytes) = List.range' p.toNat bytes.length := by
  induction bytes generalizing i p with
  | nil => rfl
  | cons b rest ih =>
    rw [List.length_cons] at h
    have hp := toNat_succ16 p (by omega)
    rw [literalEvents, writePositions_fr, writePositions_sw, ih (i + 1) (p + 1) (by omega), hp, List.length_cons,
      List.range'_succ]

@[simp] theorem writtenBytes_literalEvents (bytes : List Byte) (i : ReadCursor) (p : WriteCursor) :
    writtenBytes (literalEvents i p bytes) = bytes := by
  induction bytes generalizing i p with
  | nil => rfl
  | cons b rest ih => simp [literalEvents, ih]

@[simp] theorem readOffsets_fillEvents (count : Nat) (p : WriteCursor) (v : Byte) :
    readOffsets (fillEvents p v count) = [] := by
  induction count generalizing p with
  | zero => rfl
  | succ k ih => simp [fillEvents, ih]

theorem writePositions_fillEvents (count : Nat) (p : WriteCursor) (v : Byte) (h : p.toNat + count < 65536) :
    writePositions (fillEvents p v count) = List.range' p.toNat count := by
  induction count generalizing p with
  | zero => rfl
  | succ k ih =>
    have hp := toNat_succ16 p (by omega)
    rw [fillEvents, writePositions_sw, ih (p + 1) (by omega), hp, List.range'_succ]

@[simp] theorem writtenBytes_fillEvents (count : Nat) (p : WriteCursor) (v : Byte) :
    writtenBytes (fillEvents p v count) = List.replicate count v := by
  induction count generalizing p with
  | zero => rfl
  | succ k ih => simp [fillEvents, ih, List.replicate_succ]

/-- An item reads its own offsets, each once, in order. -/
theorem readOffsets_itemEvents (x : Instr) (i : ReadCursor) (p : WriteCursor) (h : i.toNat + x.size < 512) :
    readOffsets (itemEvents i p x) = List.range' i.toNat x.size := by
  cases x with
  | hdr l => simp [itemEvents, Instr.size]
  | lit n bytes =>
    rw [Instr.size] at h ⊢
    have hi := toNat_succ9 i (by omega)
    rw [itemEvents, readOffsets_fr, readOffsets_literalEvents bytes (i + 1) p (by omega), hi, Nat.add_comm 1,
      List.range'_succ]
  | rep n v =>
    rw [Instr.size] at h
    have hi := toNat_succ9 i (by omega)
    rw [itemEvents, readOffsets_fr, readOffsets_fr, readOffsets_fillEvents, hi]
    rfl

/-- An item writes the positions of its output, each once, in order. -/
theorem writePositions_itemEvents (x : Instr) (i : ReadCursor) (p : WriteCursor)
    (h : p.toNat + x.expand.length < 65536) :
    writePositions (itemEvents i p x) = List.range' p.toNat x.expand.length := by
  cases x with
  | hdr l => simp [itemEvents, Instr.expand]
  | lit n bytes => exact writePositions_literalEvents bytes (i + 1) p h
  | rep n v =>
    rw [Instr.expand, List.length_replicate] at h
    simpa [itemEvents, Instr.expand] using writePositions_fillEvents n.toNat p v h

@[simp] theorem writtenBytes_itemEvents (x : Instr) (i : ReadCursor) (p : WriteCursor) :
    writtenBytes (itemEvents i p x) = x.expand := by
  cases x <;> simp [itemEvents, Instr.expand]

theorem readOffsets_runEvents (segs : List Instr) (i : ReadCursor) (p : WriteCursor)
    (h : i.toNat + (segmentBytes segs).length < 512) :
    readOffsets (runEvents i p segs) = List.range' i.toNat (segmentBytes segs).length := by
  induction segs generalizing i p with
  | nil => rfl
  | cons x segs ih =>
    rw [segmentBytes_cons, List.length_append, encode_length] at h ⊢
    have hi := toNat_add_ofNat i x.size (by omega)
    rw [runEvents, readOffsets_append, readOffsets_itemEvents x i p (by omega), ih _ _ (by omega), hi,
      List.range'_append_1]

theorem writePositions_runEvents (segs : List Instr) (i : ReadCursor) (p : WriteCursor)
    (h : p.toNat + (outputOf segs).length < 65536) :
    writePositions (runEvents i p segs) = List.range' p.toNat (outputOf segs).length := by
  induction segs generalizing i p with
  | nil => rfl
  | cons x segs ih =>
    rw [outputOf_cons, List.length_append] at h ⊢
    have hp := toNat_add_ofNat p x.expand.length (by omega)
    rw [runEvents, writePositions_append, writePositions_itemEvents x i p (by omega), ih _ _ (by omega), hp,
      List.range'_append_1]

@[simp] theorem writtenBytes_runEvents (segs : List Instr) (i : ReadCursor) (p : WriteCursor) :
    writtenBytes (runEvents i p segs) = outputOf segs := by
  induction segs generalizing i p with
  | nil => rfl
  | cons x segs ih => rw [runEvents, writtenBytes_append, writtenBytes_itemEvents, ih, outputOf_cons]

/-! ### What segments do in place -/

/-- No segment is the count-0 literal run, or that run is allowed (W4 of 30_encoding.md R80). -/
def Lit0Ok (p : Params) (segs : List Instr) : Prop := p.allowLit0 = true ∨ ∀ x ∈ segs, x.isLit0 = false

/-- `t` is what `s` becomes when the Decoder has run `segs` from its boundary on, with no violation but the count-0 literal
run's: the cursors have moved by the bytes and the output, the output stands on the canvas from the write cursor up, and
the rest is as it was (40_decoder_segments.md R93 to R96). -/
structure RanSegments (s t : State) (segs : List Instr) : Prop where
  same : SelectorSame s t
  phase : t.phase = s.phase
  L : t.L = s.L
  i : t.i.toNat = s.i.toNat + (segmentBytes segs).length
  cursor : t.cursor.toNat = s.cursor.toNat + (outputOf segs).length
  written : ∀ k, k < (outputOf segs).length → canvasRead t (s.cursor.toNat + k) = (outputOf segs)[k]?
  unwritten : ∀ p, p < s.cursor.toNat ∨ s.cursor.toNat + (outputOf segs).length ≤ p → canvasRead t p = canvasRead s p
  trace : t.trace = s.trace ++ runEvents s.i s.cursor segs
  violation : Lit0Ok s.params segs → t.violation = s.violation
  draws : t.draws = s.draws

theorem RanSegments.nil (s : State) : RanSegments s s [] where
  same := .refl s
  phase := rfl
  L := rfl
  i := rfl
  cursor := rfl
  written := by simp
  unwritten _ _ := rfl
  trace := by simp [runEvents]
  violation _ := rfl
  draws := rfl

/-- One segment, and then those after it: the outputs follow one another, and so do the events. -/
theorem RanSegments.cons {s t u : State} {x : Instr} {segs : List Instr} (h : RanSegments s t [x])
    (k : RanSegments t u segs) : RanSegments s u (x :: segs) := by
  obtain ⟨hsame, hphase, hL, hi, hcursor, hwritten, hunwritten, htrace, hviolation, hdraws⟩ := h
  obtain ⟨ksame, kphase, kL, ki, kcursor, kwritten, kunwritten, ktrace, kviolation, kdraws⟩ := k
  simp only [segmentBytes_cons, segmentBytes_nil, List.append_nil, encode_length] at hi
  simp only [outputOf_cons, outputOf_nil, List.append_nil] at hcursor hwritten hunwritten
  constructor
  case same => exact hsame.trans ksame
  case phase => rw [kphase, hphase]
  case L => rw [kL, hL]
  case i => rw [ki, hi, segmentBytes_cons, List.length_append, encode_length, Nat.add_assoc]
  case cursor => rw [kcursor, hcursor, outputOf_cons, List.length_append, Nat.add_assoc]
  case draws => rw [kdraws, hdraws]
  case trace => rw [ktrace, htrace, eq_add_ofNat hi, eq_add_ofNat hcursor]; simp [runEvents]
  case violation =>
    rintro (hallow | hnone)
    · rw [kviolation (.inl (hsame.params ▸ hallow)), hviolation (.inl hallow)]
    · obtain ⟨hx, hsegs⟩ := List.forall_mem_cons.1 hnone
      rw [kviolation (.inr hsegs), hviolation (.inr (by simpa using hx))]
  case unwritten =>
    intro p hp
    rw [outputOf_cons, List.length_append] at hp
    rw [kunwritten p (by omega), hunwritten p (by omega)]
  case written =>
    intro j hj
    rw [outputOf_cons, List.length_append] at hj
    rw [outputOf_cons]
    rcases Nat.lt_or_ge j x.expand.length with hlt | hge
    · rw [List.getElem?_append_left hlt, kunwritten _ (.inl (by omega)), hwritten j hlt]
    · rw [List.getElem?_append_right hge, ← kwritten _ (by omega), hcursor]
      congr 1
      omega

theorem pastEnd_of_lt {s : State} (h : s.i.toNat < s.L.toNat) : pastEnd s = false := by
  rw [pastEnd_eq]; exact decide_eq_false (by omega)

theorem outsideStore_of_lt {s : State} {off : Nat} (h : s.base + off < s.params.romSize) : outsideStore s off = false :=
  decide_eq_false (Nat.not_le.2 h)

theorem outsideCount_of_le {s : State} {off count : Nat} (h : s.base + off + count ≤ s.params.romSize) :
    outsideCount s off count = 0 := by
  refine List.countP_eq_zero.2 fun k hk => ?_
  have := List.mem_range.1 hk
  rw [outsideStore_of_lt (by omega)]
  exact Bool.false_ne_true

/-- The fetch of a control byte inside the frame moves the read cursor and appends its event, with no violation and no
draw. -/
theorem fetchControl_inFrame {s : State} (c : Byte) (hL : s.i.toNat < s.L.toNat)
    (hstore : s.base + s.L.toNat ≤ s.params.romSize) :
    (fetchControl c s).i.toNat = s.i.toNat + 1 ∧ (fetchControl c s).violation = s.violation ∧
      (fetchControl c s).draws = s.draws := by
  have := s.L.isLt
  refine ⟨by rw [fetchControl_i, toNat_succ9 _ (by omega)], ?_, ?_⟩
  · simp [pastEnd_of_lt hL]
  · simp [outsideStore_of_lt (s := s) (off := s.i.toNat) (by omega)]

/-- LIT in place (40_decoder_segments.md R94). -/
theorem exec_lit_ran {n : Count} {bytes : List Byte} {s : State}
    (hL : s.i.toNat + (1 + bytes.length) ≤ s.L.toNat) (hstore : s.base + s.L.toNat ≤ s.params.romSize)
    (hcanvas : s.cursor.toNat + bytes.length ≤ s.params.canvasBytes) (hwrap : s.cursor.toNat + bytes.length < 65536) :
    ∃ t, exec (.lit n bytes) s = .next t ∧ RanSegments s t [.lit n bytes] := by
  have hL9 := s.L.isLt
  obtain ⟨hfi, hfv, hfd⟩ := fetchControl_inFrame (litControl n) (s := s) (by omega) hstore
  set u := loadCount n (note (n == 0 && !s.params.allowLit0) .lit0 (fetchControl (litControl n) s)) with hu
  have hui : u.i.toNat = s.i.toNat + 1 := by simpa [hu] using hfi
  have hsame : SelectorSame s u := by constructor <;> simp [hu]
  have huL : u.L = s.L := by simp [hu]
  have huc : u.cursor = s.cursor := by simp [hu]
  obtain ⟨t, ht, hloop, hti, -, htd, htv, htc, htt, hwritten, hunwritten⟩ :=
    copyLiterals_next bytes u (by rw [huc]; omega) (by omega) (by rw [huc, hsame.params]; omega)
  rw [huc] at htc hwritten hunwritten
  refine ⟨t, ht, ?_⟩
  constructor
  case same => exact hsame.trans hloop.toSelectorSame
  case phase => rw [hloop.phase]; simp [hu]
  case L => rw [hloop.L, huL]
  case i => rw [hti, hui]; simp [Instr.size]; omega
  case cursor => simpa [Instr.expand] using htc
  case written => simpa [Instr.expand] using hwritten
  case unwritten =>
    intro p hp
    rw [hunwritten p (by simpa [Instr.expand] using hp)]
    simp [canvasRead, hu]
  case trace => rw [htt]; simp [hu, runEvents, itemEvents]
  case draws =>
    rw [htd, outsideCount_of_le (by rw [hsame.base, hsame.params]; omega), Nat.add_zero]
    simpa [hu] using hfd
  case violation =>
    intro hlit0
    have hok : (n == 0 && !s.params.allowLit0) = false := by
      rcases hlit0 with hallow | hnone
      · simp [hallow]
      · have hn : (n == 0) = false := hnone _ (List.mem_singleton_self _)
        rw [hn, Bool.false_and]
    rw [htv, huL, if_neg (by omega), Option.or_none, hu, loadCount_violation, note_violation, hok, hfv]
    simp

/-- REP in place (40_decoder_segments.md R95). -/
theorem exec_rep_ran {n : Count} {v : Byte} {s : State} (hL : s.i.toNat + 2 ≤ s.L.toNat)
    (hstore : s.base + s.L.toNat ≤ s.params.romSize) (hcanvas : s.cursor.toNat + n.toNat ≤ s.params.canvasBytes)
    (hwrap : s.cursor.toNat + n.toNat < 65536) :
    ∃ t, exec (.rep n v) s = .next t ∧ RanSegments s t [.rep n v] := by
  have hL9 := s.L.isLt
  obtain ⟨hfi, hfv, hfd⟩ := fetchControl_inFrame (repControl n) (s := s) (by omega) hstore
  set w := loadCount n (fetchControl (repControl n) s) with hw
  have hwi : w.i.toNat = s.i.toNat + 1 := by rw [hw, loadCount_i, hfi]
  have hwin : pastEnd w = false := pastEnd_of_lt (by rw [hwi, hw, loadCount_L, fetchControl_L]; omega)
  have hwout : outsideStore w w.i.toNat = false := outsideStore_of_lt (by
    rw [hwi, hw, loadCount_base, fetchControl_base, loadCount_params, fetchControl_params]; omega)
  have hsame : SelectorSame s (readValue v w) := by constructor <;> simp [hw]
  have hcursor : (readValue v w).cursor = s.cursor := by simp [hw]
  obtain ⟨t, ht, hloop, hti, -, htd, htv, htc, htt, hread⟩ :=
    repeatFill_next n.toNat v (readValue v w) (by rw [hcursor]; omega) (by rw [hcursor, hsame.params]; omega)
  rw [hcursor] at htc hread
  refine ⟨t, ht, ?_⟩
  constructor
  case same => exact hsame.trans hloop.toSelectorSame
  case phase => rw [hloop.phase]; simp [hw]
  case L => rw [hloop.L]; simp [hw]
  case i => rw [hti, readValue_i, toNat_succ9 _ (by omega), hwi]; simp [Instr.size]
  case cursor => simpa [Instr.expand] using htc
  case written =>
    intro k hk
    simp only [outputOf_cons, outputOf_nil, List.append_nil, Instr.expand, List.length_replicate] at hk ⊢
    rw [hread, if_pos (by omega), List.getElem?_replicate_of_lt hk]
  case unwritten =>
    intro p hp
    simp only [outputOf_cons, outputOf_nil, List.append_nil, Instr.expand, List.length_replicate] at hp
    rw [hread, if_neg (by omega)]
    simp [canvasRead, hw]
  case trace => rw [htt]; simp [hw, runEvents, itemEvents]
  case draws => rw [htd, readValue_draws, hwout]; simpa [hw] using hfd
  case violation =>
    intro _
    rw [htv, readValue_violation, hwin, hw, loadCount_violation, hfv]
    simp

/-- A segment in place: its bytes below `L` and in the store, its output on the canvas (40_decoder_segments.md R94, R95). -/
theorem exec_segment_ran {x : Instr} {s : State} (hpos : x.position = .segment)
    (hL : s.i.toNat + x.size ≤ s.L.toNat) (hstore : s.base + s.L.toNat ≤ s.params.romSize)
    (hcanvas : s.cursor.toNat + x.expand.length ≤ s.params.canvasBytes)
    (hwrap : s.cursor.toNat + x.expand.length < 65536) : ∃ t, exec x s = .next t ∧ RanSegments s t [x] := by
  cases x with
  | hdr l => cases hpos
  | lit n bytes => exact exec_lit_ran hL hstore hcanvas hwrap
  | rep n v =>
    rw [Instr.expand, List.length_replicate] at hcanvas hwrap
    exact exec_rep_ran hL hstore hcanvas hwrap

end Sys2Proof.Machine
end

section
/-!
PROOFS. Whole decodes of a stored frame. What the Decoder has ahead of it at a segment boundary (`SegmentsAhead`) loses
its first segment with every step, so a decode runs its segments one by one and ends (40_decoder_segments.md R92, R96,
R97). Frames from the assembler and well-formed frames (30_encoding.md R80, R82) are both stored frames
(`FrameStored`).
-/

namespace Sys2Proof.Machine

/-! ### The bytes ahead of the Decoder -/

/-- Frame bytes in two parts. -/
theorem frameBytes_add (s : State) (off k l : Nat) :
    frameBytes s off (k + l) = frameBytes s off k ++ frameBytes s (off + k) l := by
  simp [frameBytes, List.range_add, Nat.add_assoc, Function.comp_def]

/-- Inside the Frame Store the frame's bytes are a function of the parameters and `base` (20_memory.md R51). -/
theorem frameBytes_of_le (s : State) (off count : Nat) (h : s.base + off + count ≤ s.params.romSize) :
    frameBytes s off count = (List.range count).map fun k => storeByte s.params (s.base + off + k) := by
  refine List.map_congr_left fun k hk => ?_
  have := List.mem_range.1 hk
  rw [frameByte_of_lt s (off + k) (by omega), Nat.add_assoc]

/-- The control byte of a segment says how long the segment is (30_encoding.md R76). -/
theorem encode_segment_eq_cons {x : Instr} (hpos : x.position = .segment) (hwf : x.wf = true) :
    ∃ c tail, encode x = c :: tail ∧ segmentLength c = x.size := by
  cases x with
  | hdr l => cases hpos
  | lit n bytes =>
    have hlen : bytes.length = n.toNat := by simpa [Instr.wf] using hwf
    exact ⟨_, _, rfl, by simp [segmentLength, Instr.size, hlen]⟩
  | rep n v => exact ⟨_, _, rfl, by simp [segmentLength, Instr.size]⟩

/-- Where the bytes of a segment stand at the read cursor, that segment is what is fetched. -/
theorem fetchBytes_of_encode {x : Instr} {s : State} (hpos : x.position = .segment) (hwf : x.wf = true)
    (h : frameBytes s s.i.toNat x.size = encode x) : fetchBytes s .segment = encode x := by
  obtain ⟨c, tail, henc, hlen⟩ := encode_segment_eq_cons hpos hwf
  obtain ⟨-, hsize, -⟩ := segment_bounds hpos hwf
  have hcontrol : frameByte s s.i.toNat = c := by
    obtain ⟨k, hk⟩ := Nat.exists_eq_succ_of_ne_zero (show x.size ≠ 0 by omega)
    rw [hk, frameBytes_succ, henc] at h
    exact (List.cons.inj h).1
  rw [fetchBytes, hcontrol, hlen, h]

/-- The Decoder stands at a segment boundary, and the bytes from there to `L` are those of `segs`, all of them in the Frame
Store, with room on the canvas for their output. -/
structure SegmentsAhead (s : State) (segs : List Instr) : Prop where
  phase : s.phase = .segment
  segments : ∀ x ∈ segs, x.isSegment = true ∧ x.wf = true
  ends : s.i.toNat + (segmentBytes segs).length = s.L.toNat
  inStore : s.base + s.L.toNat ≤ s.params.romSize
  bytes : frameBytes s s.i.toNat (segmentBytes segs).length = segmentBytes segs
  fits : s.cursor.toNat + (outputOf segs).length ≤ s.params.canvasBytes
  noWrap : s.cursor.toNat + (outputOf segs).length < 65536

/-- One step runs the first segment ahead, and the others are ahead of the state it answers. -/
theorem SegmentsAhead.step_ran {s : State} {x : Instr} {segs : List Instr} (h : SegmentsAhead s (x :: segs)) :
    ∃ t, step s = .next t ∧ RanSegments s t [x] ∧ SegmentsAhead t segs := by
  obtain ⟨hphase, hsegments, hends, hstore, hbytes, hfits, hwrap⟩ := h
  obtain ⟨⟨hseg, hwf⟩, hrest⟩ := List.forall_mem_cons.1 hsegments
  have hpos := (isSegment_iff x).1 hseg
  obtain ⟨-, hsize, -⟩ := segment_bounds hpos hwf
  rw [segmentBytes_cons, List.length_append, encode_length] at hends hbytes
  rw [outputOf_cons, List.length_append] at hfits hwrap
  obtain ⟨hfirst, hlater⟩ := List.append_inj ((frameBytes_add _ _ _ _).symm.trans hbytes) (by simp)
  have hdecode : decode .segment (fetchBytes s .segment) = .ok x [] := by
    rw [fetchBytes_of_encode hpos hwf hfirst, ← hpos]
    simpa using decode_encode hwf []
  obtain ⟨t, ht, hran⟩ := exec_segment_ran hpos (by omega) hstore (by omega) (by omega)
  refine ⟨t, by rw [step_segment s hphase (by omega), runFetched, hdecode]; exact ht, hran, ?_⟩
  have hparams := hran.same.params
  have hbase := hran.same.base
  have hi : t.i.toNat = s.i.toNat + x.size := by simpa using hran.i
  have hcursor : t.cursor.toNat = s.cursor.toNat + x.expand.length := by simpa using hran.cursor
  constructor
  case phase => rw [hran.phase, hphase]
  case segments => exact hrest
  case ends => rw [hi, hran.L]; omega
  case inStore => rw [hbase, hran.L, hparams]; exact hstore
  case fits => rw [hcursor, hparams]; omega
  case noWrap => rw [hcursor]; omega
  case bytes =>
    rw [frameBytes_of_le s _ _ (by omega)] at hlater
    rw [hi, frameBytes_of_le t _ _ (by rw [hbase, hparams]; omega), hparams, hbase]
    exact hlater

theorem runSteps_of_step {s t : State} (k : Nat) (h : step s = .next t) : runSteps (k + 1) s = runSteps k t := by
  rw [runSteps, h, andThen_next]

/-- A decode at a segment boundary runs the segments ahead, a step each, and then ends (40_decoder_segments.md R92). -/
theorem SegmentsAhead.decode_ends {s : State} {segs : List Instr} (h : SegmentsAhead s segs) :
    ∃ t, runSteps (segs.length + 1) s = .next (finishDecode t) ∧ RanSegments s t segs := by
  induction segs generalizing s with
  | nil => exact ⟨s, runSteps_of_step 0 (step_end s h.phase h.ends.ge), .nil s⟩
  | cons x segs ih =>
    obtain ⟨t, ht, hran, hahead⟩ := h.step_ran
    obtain ⟨u, hu, hlater⟩ := ih hahead
    exact ⟨u, (runSteps_of_step _ ht).trans hu, hran.cons hlater⟩

/-! ### A stored frame -/

/-- The header byte the assembler gives a list of segments (30_encoding.md R82). -/
def headerByte (segs : List Instr) : Byte := BitVec.ofNat 8 (1 + (segmentBytes segs).length)

theorem headerByte_toNat {segs : List Instr} (h : (segmentBytes segs).length ≤ 254) :
    (headerByte segs).toNat = 1 + (segmentBytes segs).length := by
  rw [headerByte, BitVec.toNat_ofNat]; omega

/-- The events of the decode of a whole frame. -/
def frameEvents (segs : List Instr) : List Event := .fr 0 (headerByte segs) :: runEvents 1 0 segs

/-- The frame of `segs` stands at `base`: a header byte that counts it, its segments, all in the Frame Store, with an
output the canvas can hold. -/
structure FrameStored (s : State) (segs : List Instr) : Prop where
  segments : ∀ x ∈ segs, x.isSegment = true ∧ x.wf = true
  short : (segmentBytes segs).length ≤ 254
  inStore : s.base + (1 + (segmentBytes segs).length) ≤ s.params.romSize
  header : frameByte s 0 = headerByte segs
  bytes : frameBytes s 1 (segmentBytes segs).length = segmentBytes segs
  fits : (outputOf segs).length ≤ s.params.canvasBytes

/-- A byte of a frame yields at most 127 bytes of output (30_encoding.md R84). -/
theorem outputOf_length_le {segs : List Instr} (hsegs : ∀ x ∈ segs, x.isSegment = true ∧ x.wf = true) :
    (outputOf segs).length ≤ 127 * (segmentBytes segs).length := by
  induction segs with
  | nil => simp
  | cons x segs ih =>
    obtain ⟨⟨hseg, hwf⟩, hrest⟩ := List.forall_mem_cons.1 hsegs
    obtain ⟨hlen, hsize, -⟩ := segment_bounds ((isSegment_iff x).1 hseg) hwf
    have := ih hrest
    rw [outputOf_cons, segmentBytes_cons, List.length_append, List.length_append, encode_length]
    omega

/-- The frame of at most 255 bytes writes too little for the write cursor to wrap (10_state.md R25). -/
theorem FrameStored.noWrap {s : State} {segs : List Instr} (h : FrameStored s segs) : (outputOf segs).length < 65536 := by
  have := outputOf_length_le h.segments
  have := h.short
  omega

theorem readOffsets_frameEvents {segs : List Instr} (h : (segmentBytes segs).length ≤ 254) :
    readOffsets (frameEvents segs) = List.range (1 + (segmentBytes segs).length) := by
  have hone : (1 : ReadCursor).toNat = 1 := rfl
  rw [frameEvents, readOffsets_fr, readOffsets_runEvents segs 1 0 (by omega), hone, List.range_eq_range', Nat.add_comm 1,
    List.range'_succ]
  rfl

theorem writePositions_frameEvents {segs : List Instr} (h : (outputOf segs).length < 65536) :
    writePositions (frameEvents segs) = List.range (outputOf segs).length := by
  have hzero : (0 : WriteCursor).toNat = 0 := rfl
  rw [frameEvents, writePositions_fr, writePositions_runEvents segs 1 0 (by omega), hzero, List.range_eq_range']

@[simp] theorem writtenBytes_frameEvents (segs : List Instr) : writtenBytes (frameEvents segs) = outputOf segs := by
  rw [frameEvents, writtenBytes_fr, writtenBytes_runEvents]

/-- The header step of a stored frame: the segments are ahead, and there is neither a violation nor a draw
(40_decoder_segments.md R91). -/
theorem FrameStored.header_step {s : State} {segs : List Instr} (h : FrameStored s segs) (hp : s.phase = .header) :
    ∃ t, step s = .next t ∧ SegmentsAhead t segs ∧ SelectorSame s t ∧ t.i = 1 ∧ t.cursor = 0 ∧ t.L = headerByte segs ∧
      t.canvas = s.canvas ∧ t.trace = s.trace ++ [.fr 0 (headerByte segs)] ∧ t.violation = s.violation ∧
      t.draws = s.draws := by
  have hwrap := h.noWrap
  obtain ⟨hsegments, hshort, hstore, hheader, hbytes, hfits⟩ := h
  have hL := headerByte_toNat hshort
  have hinside : frameOutsideStore s.params s.base (headerByte segs) = false :=
    decide_eq_false (by rw [hL]; omega)
  obtain ⟨t, ht⟩ : ∃ t, exec (.hdr (headerByte segs)) s = .next t := ⟨_, rfl⟩
  obtain ⟨hsame, hi, hcursor, hcanvas, htrace⟩ := exec_hdr_next ht
  have hrecords : t.phase = .segment ∧ t.L = headerByte segs ∧ t.violation = s.violation ∧ t.draws = s.draws := by
    cases ht
    exact ⟨rfl, rfl, by simp [hinside], if_neg (by simp [outsideStore_of_lt (s := s) (off := 0) (by omega)])⟩
  obtain ⟨htphase, htL, hviolation, hdraws⟩ := hrecords
  refine ⟨t, by rw [step_header s hp, hheader, ht], ?_, hsame, hi, hcursor, htL, hcanvas, htrace, hviolation, hdraws⟩
  have hone : (1 : ReadCursor).toNat = 1 := rfl
  have hzero : (0 : WriteCursor).toNat = 0 := rfl
  constructor
  case phase => exact htphase
  case segments => exact hsegments
  case ends => rw [hi, htL, hL, hone]
  case inStore => rw [hsame.base, hsame.params, htL, hL]; exact hstore
  case fits => rw [hcursor, hsame.params, hzero, Nat.zero_add]; exact hfits
  case noWrap => rw [hcursor, hzero, Nat.zero_add]; exact hwrap
  case bytes =>
    rw [frameBytes_of_le s _ _ (by omega)] at hbytes
    rw [hi, hone, frameBytes_of_le t _ _ (by rw [hsame.base, hsame.params]; omega), hsame.params, hsame.base]
    exact hbytes

/-- `t` is what a whole decode of `segs` makes of `s`: the output stands on the canvas from position 0 up, the Decoder's
cursors are at the end of the frame and of the output, and RENDER has returned (40_decoder_segments.md R96, R101;
41_selector.md R118). -/
structure DecodedFrame (s t : State) (segs : List Instr) : Prop where
  same : SelectorSame { s with hostCalls := s.hostCalls ++ [.renderReturned s.params.renderRet] } t
  phase : t.phase = .idle
  L : t.L = headerByte segs
  i : t.i.toNat = 1 + (segmentBytes segs).length
  cursor : t.cursor.toNat = (outputOf segs).length
  written : ∀ p, p < (outputOf segs).length → canvasRead t p = (outputOf segs)[p]?
  unwritten : ∀ p, (outputOf segs).length ≤ p → canvasRead t p = canvasRead s p
  trace : t.trace = s.trace ++ frameEvents segs
  violation : s.violation = none → fitsCanvas s.params.canvasBytes s.params.allowLit0 segs = true → t.violation = none
  draws : t.draws = s.draws

/-- A decode of a stored frame takes a step for the header, one for each segment and one to end (40_decoder_segments.md
R91, R92, R103). -/
theorem FrameStored.decodes {s : State} {segs : List Instr} (h : FrameStored s segs) (hp : s.phase = .header) :
    ∃ t, runSteps (segs.length + 2) s = .next t ∧ DecodedFrame s t segs := by
  obtain ⟨t, ht, hahead, hsame, hi, hcursor, hL, hcanvas, htrace, hviolation, hdraws⟩ := h.header_step hp
  obtain ⟨u, hu, hran⟩ := hahead.decode_ends
  obtain ⟨hparams, hbase, hidleIdx, htapIdx, hlastTick, hlastWpm, hactivityTs, hhostOps, hhostCalls⟩ :=
    hsame.trans hran.same
  have hstart : t.cursor.toNat = 0 := by rw [hcursor]; rfl
  have hend : u.cursor.toNat = (outputOf segs).length := by rw [hran.cursor, hstart, Nat.zero_add]
  refine ⟨finishDecode u, (runSteps_of_step _ ht).trans hu, ?_⟩
  constructor
  case same => constructor <;> simp [*]
  case phase => exact finishDecode_phase u
  case L => rw [finishDecode_L, hran.L, hL]
  case i => rw [finishDecode_i, hran.i, hi]; rfl
  case cursor => rw [finishDecode_cursor, hend]
  case written =>
    intro p hlt
    have := hran.written p hlt
    rwa [hstart, Nat.zero_add, canvasRead, ← finishDecode_canvas] at this
  case unwritten =>
    intro p hge
    rw [canvasRead, finishDecode_canvas, canvasRead, ← hcanvas]
    exact hran.unwritten p (.inr (by rwa [hstart, Nat.zero_add]))
  case trace => rw [finishDecode_trace, hran.trace, htrace, hi, hcursor]; simp [frameEvents]
  case draws => rw [finishDecode_draws, hran.draws, hdraws]
  case violation =>
    intro hnone hfit
    obtain ⟨hfull, hlit0⟩ := (fitsCanvas_iff _ _ _).1 hfit
    have hfilled : underfilled u = false := decide_eq_false (by rw [hend, hparams, hfull]; omega)
    have hok : Lit0Ok t.params segs := by rw [Lit0Ok, hsame.params]; exact hlit0
    rw [finishDecode_violation, hfilled, hran.violation hok, hviolation, hnone]
    rfl

/-! ### Frames from the assembler -/

/-- What the assembler answers, and when (30_encoding.md R82). -/
theorem assemble_eq_some {segs : List Instr} {frame : List Byte} (h : assemble segs = some frame) :
    (segmentBytes segs).length ≤ 254 ∧ frame = headerByte segs :: segmentBytes segs := by
  simp only [assemble] at h
  split at h
  · exact ⟨‹_›, (Option.some.inj h).symm⟩
  · cases h

/-- A frame the assembler made is a stored frame where its bytes stand at `base`. -/
theorem FrameStored.of_assemble {s : State} {segs : List Instr} {frame : List Byte}
    (hsegs : ∀ x ∈ segs, x.isSegment = true ∧ x.wf = true) (hassemble : assemble segs = some frame)
    (hstore : ∀ k, (h : k < frame.length) → s.base + k < s.params.romSize ∧ storeByte s.params (s.base + k) = frame[k])
    (hfits : (outputOf segs).length ≤ s.params.canvasBytes) : FrameStored s segs := by
  obtain ⟨hshort, rfl⟩ := assemble_eq_some hassemble
  have hall : frameBytes s 0 (1 + (segmentBytes segs).length) = headerByte segs :: segmentBytes segs := by
    refine List.ext_getElem (by simp [Nat.add_comm]) fun k hk hk' => ?_
    obtain ⟨hin, hbyte⟩ := hstore k hk'
    rw [getElem_frameBytes s 0 _ k hk, Nat.zero_add, frameByte_of_lt s k hin, hbyte]
  rw [Nat.add_comm 1, frameBytes_succ] at hall
  obtain ⟨hheader, hbytes⟩ := List.cons.inj hall
  obtain ⟨hlast, -⟩ := hstore (segmentBytes segs).length (by simp)
  exact ⟨hsegs, hshort, by omega, hheader, hbytes, hfits⟩

/-- Settles O20: the assembled frame is a stored frame, and `frameEvents` are the events of its decode. -/
theorem assembledFrameDecodesToItsOutput : Obligations.AssembledFrameDecodesToItsOutput := by
  intro s segs frame hp hsegs hassemble hstore hfits
  have hstored := FrameStored.of_assemble hsegs hassemble hstore hfits
  obtain ⟨t, ht, hdec⟩ := hstored.decodes hp
  have hlen : frame.length = 1 + (segmentBytes segs).length := by
    rw [(assemble_eq_some hassemble).2, List.length_cons, Nat.add_comm]
  refine ⟨t, frameEvents segs, ht, hdec.phase, ?_, ?_, hdec.cursor, hdec.written, hdec.unwritten, hdec.trace, ?_,
    writtenBytes_frameEvents segs, writePositions_frameEvents hstored.noWrap, hdec.same⟩
  · rw [hdec.i, hlen]
  · rw [hdec.L, headerByte_toNat hstored.short, hlen]
  · rw [readOffsets_frameEvents hstored.short, hlen]

/-! ### Well-formed frames -/

/-- A well-formed frame is the stored frame of the segments it parses to, and they fit the canvas (30_encoding.md R80). -/
theorem FrameStored.of_wellFormedFrame {s : State} (h : wellFormedFrame s.params s.base = true) :
    ∃ segs, FrameStored s segs ∧ fitsCanvas s.params.canvasBytes s.params.allowLit0 segs = true ∧
      headerByte segs = storeByte s.params s.base := by
  obtain ⟨hpos, hstore, segs, hparse, hfit⟩ := (wellFormedFrame_iff _ _).1 h
  obtain ⟨hbytes, hsegs⟩ := segmentBytes_of_parseSegments hparse
  have hlen : (segmentBytes segs).length = (storeByte s.params s.base).toNat - 1 := by
    rw [hbytes]; simp [storedSegments]
  have hbyte := (storeByte s.params s.base).isLt
  obtain ⟨hfull, -⟩ := (fitsCanvas_iff _ _ _).1 hfit
  have hheader : headerByte segs = storeByte s.params s.base := by
    rw [headerByte, hlen, Nat.add_sub_cancel' hpos, BitVec.ofNat_toNat, BitVec.setWidth_eq]
  refine ⟨segs, ⟨hsegs, by omega, by omega, ?_, ?_, hfull.le⟩, hfit, hheader⟩
  · rw [hheader, frameByte_of_lt s 0 (by omega), Nat.add_zero]
  · rw [frameBytes_of_le s _ _ (by omega), hlen, hbytes, storedSegments]

/-- Settles O21: the well-formed frame is a stored frame whose output is as long as the canvas. -/
theorem wellFormedFrameFillsTheCanvas : Obligations.WellFormedFrameFillsTheCanvas := by
  intro s hp hnone hwf
  obtain ⟨segs, hstored, hfit, hheader⟩ := FrameStored.of_wellFormedFrame hwf
  obtain ⟨t, ht, hdec⟩ := hstored.decodes hp
  obtain ⟨hfull, -⟩ := (fitsCanvas_iff _ _ _).1 hfit
  have hlen := headerByte_toNat hstored.short
  rw [← hfull, ← hheader, hlen]
  refine ⟨segs.length + 2, t, frameEvents segs, ht, hdec.phase, hdec.violation hnone hfit, hdec.draws, hdec.i, hdec.cursor,
    fun p hlt => ?_, hdec.trace, readOffsets_frameEvents hstored.short, writePositions_frameEvents hstored.noWrap⟩
  rw [writtenBytes_frameEvents, hdec.written p hlt, List.getElem?_eq_getElem hlt]
  exact ⟨rfl, rfl⟩

end Sys2Proof.Machine
end

section
/-!
PROOFS. The Decoder's single steps in full: which item a step runs (40_decoder_segments.md R92, R93, R103), the header
(R91), the end of a decode (R92), and the two segment kinds from every segment boundary, on the canvas and past it (R93 to
R95, 60_exceptions.md R144, R149). LIT and REP are each a load of their registers (`litLoaded`, `repLoaded`) and then a loop,
whose lemmas stand in Laws/Loops.lean.
-/

namespace Sys2Proof.Machine

/-! ### The item a step runs -/

theorem runFetched_of_decode {pos : Position} {s : State} {x : Instr} {rest : List Byte}
    (h : decode pos (fetchBytes s pos) = .ok x rest) : runFetched pos s = exec x s := by
  rw [runFetched, h]

/-- Settles O6: at offset 0 and at a segment boundary before the end, the step is `runFetched`. -/
theorem stepRunsDecodedItem : Obligations.StepRunsDecodedItem := by
  refine ⟨fun s x rest hp hdec => ?_, fun s x rest hp hl hdec => ?_⟩
  · rw [← runFetched_of_decode hdec, step, hp]
  · rw [← runFetched_of_decode hdec, step_segment s hp hl]

/-! ### The header and the end of a decode -/

/-- The record of a violation writes no other field (60_exceptions.md R149). -/
theorem note_eq (happens : Bool) (w : Violation) (s : State) :
    note happens w s = { s with violation := s.violation.or (if happens then some w else none) } := by
  rw [← note_violation, note]
  split <;> rfl

/-- Settles O9: the loop test fails, and what `finishDecode` writes is the record and the return. -/
theorem loopTestEndsDecode : Obligations.LoopTestEndsDecode := by
  intro s hp hl
  rw [step_end s hp hl, finishDecode, note_eq]
  simp [returnFromRender, underfilled]

/-- Settles O10: HDR is its record of a bad frame and its register writes. -/
theorem hdrStartsTheFrame : Obligations.HdrStartsTheFrame := by
  intro l s
  rw [exec, execHdr, note_eq]
  by_cases h : s.params.romSize ≤ s.base <;> simp [frameOutsideStore, outsideStore, frameAddress, h]

/-- Settles O11: after the header `i` is 1, so with `L` at most 1 the loop test fails at once. -/
theorem emptyFrameEndsAtOnce : Obligations.EmptyFrameEndsAtOnce := by
  intro l s hl
  refine ⟨_, _, hdrStartsTheFrame l s, loopTestEndsDecode _ rfl hl, ?_⟩
  exact ⟨rfl, rfl, rfl, rfl, rfl⟩

/-! ### The registers a segment loads before its loop -/

/-- `u` is `s` after a segment has loaded its control byte `c` and its count `n`, and has written nothing to the canvas yet
(40_decoder_segments.md R93). -/
structure SegmentLoaded (c : Byte) (n : Count) (s u : State) : Prop extends SelectorSame s u where
  c : u.c = c
  n : u.n = n
  L : u.L = s.L
  phase : u.phase = s.phase
  cursor : u.cursor = s.cursor
  canvas : u.canvas = s.canvas

/-- A loop keeps what was loaded. -/
theorem SegmentLoaded.loop {c : Byte} {n : Count} {s u t : State} (h : SegmentLoaded c n s u) (hloop : LoopSame u t) :
    t.c = c ∧ t.n = n ∧ t.L = s.L ∧ t.phase = s.phase ∧ SelectorSame s t :=
  ⟨hloop.c.trans h.c, hloop.n.trans h.n, hloop.L.trans h.L, hloop.phase.trans h.phase,
    h.toSelectorSame.trans hloop.toSelectorSame⟩

theorem SegmentLoaded.canvasRead_eq {c : Byte} {n : Count} {s u : State} (h : SegmentLoaded c n s u) (p : Nat) :
    canvasRead u p = canvasRead s p := by
  rw [canvasRead, h.canvas, canvasRead]

/-- LIT before its loop (40_decoder_segments.md R93, 60_exceptions.md R146). -/
def litLoaded (n : Count) (s : State) : State :=
  loadCount n (note (n == 0 && !s.params.allowLit0) .lit0 (fetchControl (litControl n) s))

/-- REP before its loop: the fill byte is read (40_decoder_segments.md R93, R95). -/
def repLoaded (n : Count) (v : Byte) (s : State) : State :=
  readValue v (loadCount n (fetchControl (repControl n) s))

theorem exec_lit_eq (n : Count) (bytes : List Byte) (s : State) :
    exec (.lit n bytes) s = copyLiterals bytes (litLoaded n s) := rfl

theorem exec_rep_eq (n : Count) (v : Byte) (s : State) :
    exec (.rep n v) s = repeatFill n.toNat v (repLoaded n v s) := rfl

theorem litLoaded_loaded (n : Count) (s : State) : SegmentLoaded (litControl n) n s (litLoaded n s) := by
  constructor
  case toSelectorSame => constructor <;> simp [litLoaded]
  all_goals simp [litLoaded]

theorem repLoaded_loaded (n : Count) (v : Byte) (s : State) : SegmentLoaded (repControl n) n s (repLoaded n v s) := by
  constructor
  case toSelectorSame => constructor <;> simp [repLoaded]
  all_goals simp [repLoaded]

/-- At a segment boundary the cursors are far enough from their widths that no segment wraps them (10_state.md R24, R25). -/
theorem AtSegment.bounds {s : State} (h : AtSegment s) :
    s.i.toNat < s.L.toNat ∧ s.L.toNat < 256 ∧ s.cursor.toNat ≤ 16129 ∧ s.cursor.toNat ≤ s.params.canvasBytes :=
  have hcursors := h.inv.cursors h.phase
  ⟨(loopContinues_iff s).1 h.loop, s.L.isLt, hcursors.cursor_le, hcursors.cursor_le_canvas⟩

/-- What LIT has read and recorded before its loop: the control byte, which lies below `L`. -/
theorem AtSegment.litLoaded_fetched {s : State} (h : AtSegment s) (n : Count) :
    (litLoaded n s).i = s.i + 1 ∧ (litLoaded n s).i.toNat = s.i.toNat + 1 ∧ (litLoaded n s).v = s.v ∧
      (litLoaded n s).trace = s.trace ++ [.fr s.i (litControl n)] ∧
      (litLoaded n s).violation =
        s.violation.or (if n.toNat = 0 then (if s.params.allowLit0 then none else some .lit0) else none) ∧
      (litLoaded n s).draws = s.draws + (if outsideStore s s.i.toNat then 1 else 0) := by
  obtain ⟨hl, hL, -⟩ := h.bounds
  have hn : (n == 0) = decide (n.toNat = 0) := by rw [Bool.eq_iff_iff]; simp [← BitVec.toNat_inj]
  refine ⟨by simp [litLoaded], ?_, by simp [litLoaded], by simp [litLoaded], ?_,
    by simp [litLoaded]⟩
  · simp only [litLoaded, loadCount_i, note_i, fetchControl_i]
    exact toNat_succ9 _ (by omega)
  · simp only [litLoaded, loadCount_violation, note_violation, fetchControl_violation, pastEnd_of_lt hl, hn]
    cases s.params.allowLit0 <;> simp

/-- What REP has read and recorded before its loop: the control byte, which lies below `L`, and the fill byte, which may
not. -/
theorem AtSegment.repLoaded_fetched {s : State} (h : AtSegment s) (n : Count) (v : Byte) :
    (repLoaded n v s).i.toNat = s.i.toNat + 2 ∧ (repLoaded n v s).v = v ∧
      (repLoaded n v s).trace = s.trace ++ [.fr s.i (repControl n), .fr (s.i + 1) v] ∧
      (repLoaded n v s).violation = s.violation.or (if s.L.toNat ≤ s.i.toNat + 1 then some .overread else none) ∧
      (repLoaded n v s).draws = s.draws + outsideCount s s.i.toNat 2 := by
  obtain ⟨hl, hL, -⟩ := h.bounds
  set u := loadCount n (fetchControl (repControl n) s) with hu
  have hui : u.i.toNat = s.i.toNat + 1 := by
    rw [hu, loadCount_i, fetchControl_i]; exact toNat_succ9 _ (by omega)
  have hload : repLoaded n v s = readValue v u := rfl
  rw [hload]
  refine ⟨?_, rfl, by simp [hu], ?_, ?_⟩
  · rw [readValue_i, toNat_succ9 _ (by omega), hui]
  · rw [readValue_violation, pastEnd_eq, hui]
    simp [hu, pastEnd_of_lt hl]
  · rw [readValue_draws, hui, outsideStore_congr s u _ (by simp [hu]) (by simp [hu]), outsideCount_succ, outsideCount_succ]
    simp [hu, outsideCount, Nat.add_assoc]

/-! ### LIT -/

/-- Settles O12: the load of `AtSegment.litLoaded_fetched`, and then the loop of `copyLiterals_next`. -/
theorem litCopiesItsLiterals : Obligations.LitCopiesItsLiterals := by
  intro n bytes s hat hwf hfits
  have hlen : bytes.length = n.toNat := by simpa [Instr.wf] using hwf
  have hn := n.isLt
  obtain ⟨hl, hL, hcur, -⟩ := hat.bounds
  obtain ⟨hi, hi', hv, htr, hviol, hdraws⟩ := hat.litLoaded_fetched n
  have hload := litLoaded_loaded n s
  obtain ⟨t, ht, hloop, hti, htv, htd, htviol, htc, httr, hwritten, hunwritten⟩ :=
    copyLiterals_next bytes (litLoaded n s) (by rw [hload.cursor]; omega) (by omega)
      (by rw [hload.cursor, hload.params]; omega)
  rw [hload.cursor] at htc httr hwritten hunwritten
  rw [hlen] at hti htd htviol htc hwritten hunwritten
  obtain ⟨hc, hcount, htL, hphase, hsame⟩ := hload.loop hloop
  refine ⟨t, ht, by rw [hti, hi'], htc, hc, hcount, by rw [htv, hv], hwritten,
    fun p hp => by rw [hunwritten p hp, hload.canvasRead_eq], ?_, ?_, ?_, htL, hphase, hsame⟩
  · rw [httr, htr, hi]; simp
  · rw [htviol, hviol, hload.L, hi', Option.or_assoc]
    by_cases hzero : n.toNat = 0 <;> simp [hzero]
  · rw [htd, hdraws, hi', outsideCount_congr s _ _ _ hload.base hload.params, Nat.add_comm 1 n.toNat, outsideCount_succ,
      Nat.add_assoc]

/-- Settles O13: a run that goes past the canvas has a literal byte, so the count-0 record is not made, and the loop is that
of `copyLiterals_fault`. -/
theorem litBeyondCanvasFaults : Obligations.LitBeyondCanvasFaults := by
  intro n bytes s hat hwf hover
  have hlen : bytes.length = n.toNat := by simpa [Instr.wf] using hwf
  have hn := n.isLt
  obtain ⟨hl, hL, hcur, hcanvas⟩ := hat.bounds
  obtain ⟨hi, hi', -, htr, hviol, -⟩ := hat.litLoaded_fetched n
  have hload := litLoaded_loaded n s
  have hfault := copyLiterals_fault bytes (litLoaded n s) (by rw [hload.cursor]; omega) (by omega)
    (by rw [hload.cursor, hload.params]; omega) (by rw [hload.cursor, hload.params]; omega)
  have hpositive : n.toNat ≠ 0 := by omega
  rw [if_neg hpositive, Option.or_none] at hviol
  rw [exec_lit_eq, hfault, hload.cursor, hload.params, hload.L, hi', hi, htr, hviol]
  simp

/-! ### REP -/

/-- Settles O15: the load of `AtSegment.repLoaded_fetched`, and then the loop of `repeatFill_next`. -/
theorem repRepeatsItsFill : Obligations.RepRepeatsItsFill := by
  intro n v s hat hfits
  have hn := n.isLt
  obtain ⟨hl, hL, hcur, -⟩ := hat.bounds
  obtain ⟨hi, hv, htr, hviol, hdraws⟩ := hat.repLoaded_fetched n v
  have hload := repLoaded_loaded n v s
  obtain ⟨t, ht, hloop, hti, htv, htd, htviol, htc, httr, hread⟩ :=
    repeatFill_next n.toNat v (repLoaded n v s) (by rw [hload.cursor]; omega) (by rw [hload.cursor, hload.params]; omega)
  rw [hload.cursor] at htc httr hread
  obtain ⟨hc, hcount, htL, hphase, hsame⟩ := hload.loop hloop
  refine ⟨t, ht, by rw [hti, hi], htc, hc, hcount, by rw [htv, hv], fun k hk => ?_, fun p hp => ?_, ?_, by rw [htviol, hviol],
    by rw [htd, hdraws], htL, hphase, hsame⟩
  · rw [hread, if_pos (by omega)]
  · rw [hread, if_neg (by omega), hload.canvasRead_eq]
  · rw [httr, htr]; simp

/-- Settles O16: the fill byte's over-read is recorded before the loop of `repeatFill_fault` runs past the canvas. -/
theorem repBeyondCanvasFaults : Obligations.RepBeyondCanvasFaults := by
  intro n v s hat hover
  have hn := n.isLt
  obtain ⟨hl, hL, hcur, hcanvas⟩ := hat.bounds
  obtain ⟨-, -, htr, hviol, -⟩ := hat.repLoaded_fetched n v
  have hload := repLoaded_loaded n v s
  have hfault := repeatFill_fault n.toNat v (repLoaded n v s) (by rw [hload.cursor]; omega)
    (by rw [hload.cursor, hload.params]; omega) (by rw [hload.cursor, hload.params]; omega)
  rw [exec_rep_eq, hfault, hload.cursor, hload.params, htr, hviol, Option.getD_or]
  by_cases hread : s.L.toNat ≤ s.i.toNat + 1 <;> simp [hread]

end Sys2Proof.Machine
end

section
/-!
PROOFS. Decodes as wholes: every decode ends (40_decoder_segments.md R99), the decode of a well-formed frame is a function
of the frame's own bytes (R98, R100), and in an instantiated machine a RENDER up to the timeout runs one such decode to its
end (41_selector.md R110, R122).
-/

namespace Sys2Proof.Machine

/-! ### Every decode ends -/

/-- At most `k` steps lead to the idle block or to the fault of a write beyond the canvas. -/
def EndsWithin (k : Nat) (s : State) : Prop :=
  ∃ j, j ≤ k ∧ ((∃ t, runSteps j s = .next t ∧ t.phase = .idle) ∨ ∃ trace w, runSteps j s = .fault (.overrun trace w))

theorem EndsWithin.mono {k l : Nat} {s : State} (h : EndsWithin k s) (hkl : k ≤ l) : EndsWithin l s := by
  obtain ⟨j, hj, hend⟩ := h
  exact ⟨j, hj.trans hkl, hend⟩

theorem EndsWithin.of_step {k : Nat} {s t : State} (hstep : step s = .next t) (h : EndsWithin k t) :
    EndsWithin (k + 1) s := by
  obtain ⟨j, hj, hend⟩ := h
  exact ⟨j + 1, by omega, by rwa [runSteps_of_step j hstep]⟩

theorem endsWithin_of_idle {k : Nat} {s : State} (h : s.phase = .idle) : EndsWithin k s :=
  ⟨0, Nat.zero_le k, .inl ⟨s, rfl, h⟩⟩

theorem endsWithin_of_fault {k : Nat} {s : State} {trace : List Event} {w : Violation}
    (h : step s = .fault (.overrun trace w)) : EndsWithin (k + 1) s :=
  ⟨1, by omega, .inr ⟨trace, w, by rw [runSteps, h, andThen_fault]⟩⟩

/-- From a segment boundary with `d` bytes left, at most `d` segments and the end: a segment is at least one byte long, and
`i`, below `L`, does not wrap (10_state.md R24). -/
theorem endsWithin_segments (d : Nat) {s : State} (hp : s.phase = .segment) (hd : s.L.toNat - s.i.toNat ≤ d) :
    EndsWithin (d + 1) s := by
  induction d generalizing s with
  | zero => exact .of_step (step_end s hp (by omega)) (endsWithin_of_idle (finishDecode_phase s))
  | succ d ih =>
    rcases Nat.lt_or_ge s.i.toNat s.L.toNat with hl | hl
    · obtain ⟨x, hx, hpos⟩ := decode_fetchBytes_segment s
      have hstep : step s = exec x s := by rw [step_segment s hp hl, runFetched_of_decode hx]
      rcases exec_segment_cases s x hpos with ⟨t, -, ht, -, hphase, hL, hi, -⟩ | ⟨_, _, _, _, -, hfault⟩
      · have hmove := i_toNat_segment hpos (decode_wf hx) hl hi
        obtain ⟨-, hsize, -⟩ := segment_bounds hpos (decode_wf hx)
        exact .of_step (hstep.trans ht) (ih (by rw [hphase, hp]) (by rw [hL, hmove]; omega))
      · exact endsWithin_of_fault (hstep.trans hfault)
    · exact .of_step (step_end s hp hl) (endsWithin_of_idle (finishDecode_phase s))

/-- Settles O19: `L` is at most 255; after a header `i` is 1, so that at most 254 bytes are left. -/
theorem everyDecodeEnds : Obligations.EveryDecodeEnds := by
  intro s hp
  cases hphase : s.phase with
  | idle => exact absurd hphase hp
  | header =>
    have hbyte := (frameByte s 0).isLt
    exact EndsWithin.of_step ((step_header s hphase).trans (hdrStartsTheFrame _ s))
      (endsWithin_segments 254 rfl (Nat.sub_le_of_le_add (Nat.le_of_lt_succ hbyte)))
  | segment =>
    have hL := s.L.isLt
    exact endsWithin_segments 255 hphase (by omega)

/-! ### The frame's bytes decide its decode -/

/-- A list of well-formed segments is told by its bytes (30_encoding.md R70). -/
theorem segmentBytes_injective {segs segs' : List Instr} (h : ∀ x ∈ segs, x.isSegment = true ∧ x.wf = true)
    (h' : ∀ x ∈ segs', x.isSegment = true ∧ x.wf = true) (heq : segmentBytes segs = segmentBytes segs') : segs = segs' := by
  have hparse := segmentListParsesBack segs h
  rw [heq, segmentListParsesBack segs' h'] at hparse
  exact (Option.some.inj hparse).symm

/-- The bytes of a stored frame are those of the Frame Store (20_memory.md R51). -/
theorem FrameStored.frameByte_eq {s : State} {segs : List Instr} (h : FrameStored s segs) {k : Nat}
    (hk : k < 1 + (segmentBytes segs).length) : frameByte s k = storeByte s.params (s.base + k) :=
  frameByte_of_lt s k (by have := h.inStore; omega)

/-- Two frames that hold the same bytes are frames of the same segments: the header byte gives their length. -/
theorem FrameStored.segments_eq {s s' : State} {segs segs' : List Instr} (h : FrameStored s segs) (h' : FrameStored s' segs')
    (hbytes : ∀ k, k < 1 + (segmentBytes segs).length →
      storeByte s.params (s.base + k) = storeByte s'.params (s'.base + k)) : segs = segs' := by
  have hheader : headerByte segs = headerByte segs' := by
    rw [← h.header, ← h'.header, h.frameByte_eq (by omega), h'.frameByte_eq (by omega), hbytes 0 (by omega)]
  have hlen : (segmentBytes segs).length = (segmentBytes segs').length := by
    have := congrArg BitVec.toNat hheader
    rw [headerByte_toNat h.short, headerByte_toNat h'.short] at this
    omega
  refine segmentBytes_injective h.segments h'.segments ?_
  rw [← h.bytes, ← h'.bytes, ← hlen]
  refine List.map_congr_left fun k hk => ?_
  have hlt := List.mem_range.1 hk
  rw [h.frameByte_eq (by omega), h'.frameByte_eq (by omega), hbytes (1 + k) (by omega)]

/-- Settles O22: both frames store the same segments, whose events and output the decode appends and leaves. -/
theorem decodeDependsOnFrameBytesOnly : Obligations.DecodeDependsOnFrameBytesOnly := by
  intro s s' hp hp' hwf hwf' _ hbytes
  obtain ⟨segs, hstored, hfit, hheader⟩ := FrameStored.of_wellFormedFrame hwf
  obtain ⟨segs', hstored', -⟩ := FrameStored.of_wellFormedFrame hwf'
  have hlen := headerByte_toNat hstored.short
  rw [hheader] at hlen
  obtain rfl : segs = segs' := hstored.segments_eq hstored' fun k hk => hbytes k (by omega)
  obtain ⟨t, ht, hdec⟩ := hstored.decodes hp
  obtain ⟨t', ht', hdec'⟩ := hstored'.decodes hp'
  obtain ⟨hfull, -⟩ := (fitsCanvas_iff _ _ _).1 hfit
  refine ⟨segs.length + 2, t, t', frameEvents segs, ht, ht', hdec.phase, hdec'.phase, hdec.trace, hdec'.trace,
    fun p hlt => ?_⟩
  rw [hdec.written p (by omega), hdec'.written p (by omega)]

/-! ### RENDER in an instantiated machine -/

/-- The display is powered off only above the timeout (41_selector.md R112). -/
theorem timeout_lt_of_asleep {p : Params} {elapsed : Nat} (h : animState p elapsed = .asleep) : p.timeout < elapsed := by
  unfold animState at h
  split_ifs at h with hlt
  exact hlt

/-- In a machine whose frames are well-formed, the tick starts the decode of one of them, with no violation: the advanced
indices stay inside their sets (41_selector.md R114 to R117). -/
theorem selectFrame_starts {s : State} {now : Nat} (hinv : Inv s) (hp : s.phase = .idle)
    (hframes : allFramesOk s.params = true) (hpaws : 0 < s.params.pawsFrames) (hnow : timestamp s.params.tw now = now)
    (hawake : elapsedAt now s ≤ s.params.timeout) :
    (selectFrame now s).phase = .header ∧ (selectFrame now s).violation = none ∧ (selectFrame now s).lastTick = now ∧
      (selectFrame now s).hostCalls = s.hostCalls ∧ wellFormedFrame s.params (selectFrame now s).base = true := by
  have htick := inv_recordTick hinv hp hnow
  obtain ⟨hidleFrame, hpawsFrame, htapFrame⟩ := (allFramesOk_iff _).1 hframes s.params.side
  unfold selectFrame
  cases hanim : animState s.params (elapsedAt now s) with
  | asleep => exact absurd (timeout_lt_of_asleep hanim) (by omega)
  | tapping =>
    refine ⟨rfl, rfl, rfl, rfl, htapFrame _ ?_⟩
    rw [nextTapIdx_toNat _ htick]
    exact Nat.mod_lt _ hinv.params_ok.tapFrames_pos
  | cooldown => exact ⟨rfl, rfl, rfl, rfl, hpawsFrame 0 hpaws⟩
  | idling =>
    refine ⟨rfl, rfl, rfl, rfl, hidleFrame _ ?_⟩
    rw [nextIdleIdx_toNat _ htick]
    exact Nat.mod_lt _ hinv.params_ok.idleFrames_pos

/-- In an instantiated machine a RENDER up to the timeout starts the decode of a well-formed frame; its activity stage has
written `activity_ts`, and its tick `last_tick` (41_selector.md R110). -/
theorem Sound.render_starts {s : State} (h : Sound s) (hp : s.phase = .idle) (time w : Nat) (ops : List HostOp) {act : Nat}
    (hact : act = (if s.params.actMode = .wpm ∧ s.lastWpm < w % 2 ^ s.params.ww then timestamp s.params.tw time
      else s.activityTs))
    (hawake : elapsedSince s.params.tw (timestamp s.params.tw time) act ≤ s.params.timeout) :
    ∃ u, render time w (setHostOps ops s) = u ∧ u.phase = .header ∧ u.violation = none ∧
      wellFormedFrame u.params u.base = true ∧ u.params = s.params ∧ u.hostOps = ops ∧ u.hostCalls = s.hostCalls ∧
      u.lastTick = timestamp s.params.tw time ∧ u.activityTs = act ∧ u.trace = s.trace := by
  set now := timestamp s.params.tw time
  have hnow : timestamp s.params.tw now = now := timestamp_idem _ _
  set v := activityStage now w (setHostOps ops s) with hv
  have hparams : v.params = s.params := by simp [hv]
  have hvact : v.activityTs = act := by rw [hact]; exact (activityStage_eq now w (setHostOps ops s)).1
  have hinv : Inv v := inv_activityStage (inv_setHostOps h.inv hp ops) hp w hnow
  obtain ⟨hact, -, hsame, hops, -, htrace, -⟩ := selectFrame_keeps now v
  obtain ⟨hphase, hnone, htick, hcalls, hwf⟩ := selectFrame_starts hinv (by simpa [hv] using hp)
    (by rw [hparams]; exact h.frames) (by rw [hparams]; exact h.pawsFrames_pos) (by rw [hparams]; exact hnow)
    (by rw [elapsedAt, hparams, hvact]; exact hawake)
  refine ⟨selectFrame now v, rfl, hphase, hnone, by rw [hsame]; exact hwf, hsame.trans hparams, ?_, ?_, htick,
    hact.trans hvact, ?_⟩
  · rw [hops]; simp [hv]
  · rw [hcalls]; simp [hv]
  · rw [htrace]; simp [hv]

/-- Settles O54: the frame whose decode the tick starts is stored, and its output is as long as the canvas. -/
theorem renderFillsTheCanvas : Obligations.RenderFillsTheCanvas := by
  intro s time w ops act hsound hp hops hact hawake
  obtain ⟨u, hu, hphase, hnone, hwf, hparams, huops, hucalls, hutick, huact, hutrace⟩ :=
    hsound.render_starts hp time w ops hact hawake
  obtain ⟨segs, hstored, hfit, hheader⟩ := FrameStored.of_wellFormedFrame hwf
  obtain ⟨t, ht, hdec⟩ := hstored.decodes hphase
  obtain ⟨hfull, -⟩ := (fitsCanvas_iff _ _ _).1 hfit
  have hlen := headerByte_toNat hstored.short
  rw [hheader] at hlen
  obtain ⟨-, hbase, hidleIdx, htapIdx, htick, -, hts, hhostOps, hcalls⟩ := hdec.same
  rw [← hparams, ← hfull]
  refine ⟨segs.length + 2, u, t, frameEvents segs, by rw [step_render s time w ops hp hops, hu], hphase, ht, hdec.phase,
    hdec.violation hnone hfit, hhostOps.trans huops, hbase, hidleIdx, htapIdx, by rw [hcalls, hucalls],
    by rw [htick, hutick, hparams], hts.trans huact, by rw [hdec.trace, hutrace],
    writePositions_frameEvents hstored.noWrap, fun p hlt => ?_, by rw [hlen, readOffsets_frameEvents hstored.short]⟩
  rw [writtenBytes_frameEvents, hdec.written p hlt, List.getElem?_eq_getElem hlt]
  exact ⟨rfl, rfl⟩

end Sys2Proof.Machine
end

section
/-!
PROOFS. The Selector and the host operations. The animation state is inverted by its thresholds (41_selector.md R112,
R113); a RENDER is its activity stage, as one record update, followed by the power decision; and the power decision is
inverted once, over both sides of the display, to one decode or the power-off (`selectFrame_onSide_cases`).
-/

namespace Sys2Proof.Machine

/-! ### Elapsed time and the animation state -/

/-- Settles O37: adding `2^TW - ts` is subtracting `ts`, modulo `2^TW`. -/
theorem elapsedIsTheDifference : Obligations.ElapsedIsTheDifference := by
  refine ⟨fun w now ts _ hts => ?_, fun now ts hle => if_pos hle⟩
  have hturn : (now : Int) + (2 ^ w - ts) = now - ts + 2 ^ w := by ring
  rw [elapsedSince, Nat.mod_eq_of_lt hts]
  push_cast [Nat.cast_sub hts.le]
  rw [hturn, Int.add_emod_right]

section
variable {p : Params} {e : Nat}

theorem animState_asleep_iff : animState p e = .asleep ↔ p.timeout < e := by
  unfold animState
  split_ifs with hoff <;> simp [hoff]

theorem animState_tapping_iff : animState p e = .tapping ↔ e ≤ p.timeout ∧ e < 2 * p.d := by
  unfold animState
  split_ifs <;> simp <;> omega

theorem animState_cooldown_iff : animState p e = .cooldown ↔ e ≤ p.timeout ∧ 2 * p.d ≤ e ∧ e < 8 * p.d := by
  unfold animState
  split_ifs <;> simp <;> omega

theorem animState_idling_iff : animState p e = .idling ↔ e ≤ p.timeout ∧ 2 * p.d ≤ e ∧ 8 * p.d ≤ e := by
  unfold animState
  split_ifs <;> simp <;> omega

end

/-- Settles O38: the four rows of the table. -/
theorem animationStateByThresholds : Obligations.AnimationStateByThresholds := fun _ _ =>
  ⟨animState_asleep_iff, animState_tapping_iff, animState_cooldown_iff, animState_idling_iff⟩

/-- Settles O39, by the later state: each rules out, for an elapsed time no larger, the states beyond it. -/
theorem progressionWithoutRestimulus : Obligations.ProgressionWithoutRestimulus := by
  intro p e e' hle
  cases hlater : animState p e' with
  | tapping =>
    obtain ⟨hawake, hlt⟩ := animState_tapping_iff.1 hlater
    rw [animState_tapping_iff.2 ⟨hle.trans hawake, by omega⟩]
  | cooldown =>
    obtain ⟨hawake, -, hlt⟩ := animState_cooldown_iff.1 hlater
    rcases Nat.lt_or_ge e (2 * p.d) with htap | hcool
    · rw [animState_tapping_iff.2 ⟨hle.trans hawake, htap⟩]; decide
    · rw [animState_cooldown_iff.2 ⟨hle.trans hawake, hcool, by omega⟩]
  | idling =>
    obtain ⟨hawake, -⟩ := animState_idling_iff.1 hlater
    cases hearlier : animState p e with
    | asleep => exact absurd (timeout_lt_of_asleep hearlier) (by omega)
    | tapping | cooldown | idling => decide
  | asleep => cases animState p e <;> decide

/-! ### ACTIVITY and ROTATION -/

/-- An idle block takes the host's next operation (70_reset_and_hazards.md R172). -/
theorem step_hostOp {s : State} {op : HostOp} {ops : List HostOp} (hp : s.phase = .idle)
    (hops : s.hostOps = op :: ops) : step s = invoke op (setHostOps ops s) := by
  rw [step_idle s hp, hostStep, hops]

/-- An operation of an idle block has its meaning, where a RENDER in progress would refuse it. -/
theorem invoke_activity {s : State} (hp : s.phase = .idle) (time : Nat) :
    invoke (.activity time) s = .next (activity time s) := by rw [invoke, hp]

theorem invoke_rotation {s : State} (hp : s.phase = .idle) : invoke .rotation s = .next (rotation s) := by
  rw [invoke, hp]

/-- Settles O35: the operation taken is the one update of `activity`. -/
theorem activityWritesTheTimestampOnly : Obligations.ActivityWritesTheTimestampOnly := fun s time ops hp hops =>
  (step_hostOp hp hops).trans (invoke_activity (s := setHostOps ops s) hp time)

/-- Settles O36: the operation taken is `rotation`'s record of the value returned. -/
theorem rotationReturnsTheOrientation : Obligations.RotationReturnsTheOrientation := fun s ops hp hops =>
  (step_hostOp hp hops).trans (invoke_rotation (s := setHostOps ops s) hp)

/-! ### The power decision -/

section
variable {now : Nat} {s : State}

theorem selectFrame_asleep (h : s.params.timeout < elapsedAt now s) : selectFrame now s = powerOff s := by
  rw [selectFrame, animState_asleep_iff.2 h]

theorem selectFrame_tapping (hawake : elapsedAt now s ≤ s.params.timeout) (htap : elapsedAt now s < 2 * s.params.d) :
    selectFrame now s = tickTap (recordTick now s) := by
  rw [selectFrame, animState_tapping_iff.2 ⟨hawake, htap⟩]

theorem selectFrame_cooldown (hawake : elapsedAt now s ≤ s.params.timeout) (hlow : 2 * s.params.d ≤ elapsedAt now s)
    (hhigh : elapsedAt now s < 8 * s.params.d) : selectFrame now s = tickCooldown (recordTick now s) := by
  rw [selectFrame, animState_cooldown_iff.2 ⟨hawake, hlow, hhigh⟩]

theorem selectFrame_idling (hawake : elapsedAt now s ≤ s.params.timeout) (hlow : 2 * s.params.d ≤ elapsedAt now s)
    (hhigh : 8 * s.params.d ≤ elapsedAt now s) : selectFrame now s = tickIdle (recordTick now s) := by
  rw [selectFrame, animState_idling_iff.2 ⟨hawake, hlow, hhigh⟩]

end

/-- Everything the power decision can do, on either side: it powers off above the timeout, and up to it writes `last_tick`
and at most one index and starts one decode. Which of these, and the pose and sub-frame, do not depend on the side
(41_selector.md R117). -/
theorem selectFrame_onSide_cases (now : Nat) (s : State) :
    (s.params.timeout < elapsedAt now s ∧ ∀ side, selectFrame now (onSide side s) = powerOff (onSide side s)) ∨
    (elapsedAt now s ≤ s.params.timeout ∧ ∃ (pose : Pose) (k : Nat) (tap idle : SubFrame),
      (tap = s.tapIdx ∨ idle = s.idleIdx) ∧ ∀ side, selectFrame now (onSide side s) =
        decodeFrame pose k (onSide side { s with lastTick := now, tapIdx := tap, idleIdx := idle })) := by
  rcases Nat.lt_or_ge s.params.timeout (elapsedAt now s) with hoff | hawake
  · exact .inl ⟨hoff, fun side => selectFrame_asleep hoff⟩
  refine .inr ⟨hawake, ?_⟩
  rcases Nat.lt_or_ge (elapsedAt now s) (2 * s.params.d) with htap | hlow
  · exact ⟨.tap, (nextTapIdx s).toNat, nextTapIdx s, s.idleIdx, .inr rfl, fun side => selectFrame_tapping hawake htap⟩
  rcases Nat.lt_or_ge (elapsedAt now s) (8 * s.params.d) with hcool | hidle
  · exact ⟨.paws, 0, s.tapIdx, s.idleIdx, .inl rfl, fun side => selectFrame_cooldown hawake hlow hcool⟩
  · exact ⟨.idle, (nextIdleIdx s).toNat, s.tapIdx, nextIdleIdx s, .inl rfl,
      fun side => selectFrame_idling hawake hlow hidle⟩

/-- The activity stage does not look at the side (41_selector.md R111, R117). -/
theorem activityStage_onSide (now w : Nat) (side : Side) (s : State) :
    activityStage now w (onSide side s) = onSide side (activityStage now w s) := by
  have hsame : (onSide side s).params.actMode = s.params.actMode := rfl
  cases hmode : s.params.actMode with
  | key => simp only [activityStage, hsame, hmode]
  | wpm => simp only [activityStage, hsame, hmode]; rfl

/-! ### RENDER -/

/-- In `KEY` mode RENDER does not look at the sample (41_selector.md R110). -/
theorem render_key {s : State} (h : s.params.actMode = .key) (time w : Nat) :
    render time w s = selectFrame (timestamp s.params.tw time) s := by
  simp only [render, activityStage, h]

/-- The Activity Timestamp and the stored sample after RENDER's first stages are what the activity stage left: the power
decision, whichever it is, writes neither (41_selector.md R111). -/
theorem render_activity_eq (time w : Nat) (s : State) :
    (render time w s).activityTs = (if s.params.actMode = .wpm ∧ s.lastWpm < w % 2 ^ s.params.ww
      then timestamp s.params.tw time else s.activityTs) ∧
    (render time w s).lastWpm = (if s.params.actMode = .wpm then w % 2 ^ s.params.ww else s.lastWpm) := by
  obtain ⟨hact, hwpm⟩ := activityStage_eq (timestamp s.params.tw time) w s
  obtain ⟨hkeepAct, hkeepWpm, -⟩ := selectFrame_keeps (timestamp s.params.tw time)
    (activityStage (timestamp s.params.tw time) w s)
  exact ⟨hkeepAct.trans hact, hkeepWpm.trans hwpm⟩

/-- Settles O40, by `render_activity_eq`; in `KEY` mode two RENDERs that differ in the sample are the same. -/
theorem renderTakesTheWpmSample : Obligations.RenderTakesTheWpmSample := by
  intro s time w ops hp hops
  obtain ⟨hact, hwpm⟩ := render_activity_eq time w (setHostOps ops s)
  refine ⟨_, step_render s time w ops hp hops, fun hmode => ⟨?_, fun hlt => ?_, fun hle => ?_⟩,
    fun hmode => ⟨?_, ?_, fun w' => ?_⟩⟩
  · exact hwpm.trans (if_pos hmode)
  · exact hact.trans (if_pos ⟨hmode, hlt⟩)
  · exact hact.trans (if_neg fun h => hle.not_gt h.2)
  · exact hwpm.trans (if_neg (by simp [hmode]))
  · exact hact.trans (if_neg (by simp [hmode]))
  · have hsame : render time w' (setHostOps ops s) = render time w (setHostOps ops s) := by
      rw [render_key (by simpa using hmode), render_key (by simpa using hmode)]
    exact (step_render { s with hostOps := .render time w' :: ops } time w' ops hp rfl).trans (congrArg _ hsame)

/-- Settles O45: after activity stages that differ in the side only, both sides make the same choice
(`selectFrame_onSide_cases`). -/
theorem sidesDifferInTheFrameTableOnly : Obligations.SidesDifferInTheFrameTableOnly := by
  intro s time w ops hp hops
  set v := activityStage (timestamp s.params.tw time) w (setHostOps ops s) with hv
  have hbase : v.base = s.base := by simp [hv]
  have hparams : v.params = s.params := by simp [hv]
  have hstep (side : Side) : step (onSide side s) = .next (selectFrame (timestamp s.params.tw time) (onSide side v)) := by
    rw [step_render (onSide side s) time w ops hp hops, hv, ← activityStage_onSide]
    rfl
  refine ⟨_, _, hstep .left, hstep .right, ?_⟩
  rcases selectFrame_onSide_cases (timestamp s.params.tw time) v with
    ⟨-, hsel⟩ | ⟨-, pose, k, tap, idle, -, hsel⟩
  · rw [hsel, hsel]
    exact ⟨rfl, .inl ⟨rfl, hbase, hbase⟩⟩
  · rw [hsel, hsel, ← hparams]
    exact ⟨rfl, .inr ⟨rfl, pose, k, rfl, rfl⟩⟩

/-- The step that takes a RENDER, with what the activity stage left written in (41_selector.md R110, R111). -/
theorem step_render_selectFrame {s : State} {time w : Nat} {ops : List HostOp} {act wpm : Nat} (hp : s.phase = .idle)
    (hops : s.hostOps = .render time w :: ops)
    (hact : act = (if s.params.actMode = .wpm ∧ s.lastWpm < w % 2 ^ s.params.ww then timestamp s.params.tw time
      else s.activityTs))
    (hwpm : wpm = (if s.params.actMode = .wpm then w % 2 ^ s.params.ww else s.lastWpm)) :
    step s = .next
      (selectFrame (timestamp s.params.tw time) { s with hostOps := ops, activityTs := act, lastWpm := wpm }) := by
  rw [step_render s time w ops hp hops, render, setHostOps_params, activityStage_record _ w ops s act wpm hact hwpm]

/-- Settles O41: the tick's own updates, with the index as a number. -/
theorem tappingTick : Obligations.TappingTick := by
  intro s time w ops act wpm hinv hp hops hact hwpm hawake htap
  refine ⟨_, (step_render_selectFrame hp hops hact hwpm).trans (congrArg _ (selectFrame_tapping hawake htap)),
    nextTapIdx_toNat s hinv, ?_⟩
  rw [← nextTapIdx_toNat s hinv]
  rfl

/-- Settles O42: the paws frame is the one of index 0, and no index is written. -/
theorem cooldownTick : Obligations.CooldownTick := by
  intro s time w ops act wpm hp hops hact hwpm hawake hlow hhigh
  exact (step_render_selectFrame hp hops hact hwpm).trans (congrArg _ (selectFrame_cooldown hawake hlow hhigh))

/-- Settles O43: the tick's own updates, with the index as a number. -/
theorem idlingTick : Obligations.IdlingTick := by
  intro s time w ops act wpm hinv hp hops hact hwpm hawake hlow hhigh
  refine ⟨_, (step_render_selectFrame hp hops hact hwpm).trans (congrArg _ (selectFrame_idling hawake hlow hhigh)),
    nextIdleIdx_toNat s hinv, ?_⟩
  rw [← nextIdleIdx_toNat s hinv]
  rfl

/-- The power-off as one record update (41_selector.md R112, R118). -/
theorem powerOff_record {s : State} (hp : s.phase = .idle) : powerOff s =
    { s with hostCalls := s.hostCalls ++ [.displayOff, .renderReturned s.params.renderRet] } := by
  simp [powerOff, returnFromRender, hp]

/-- Settles O44: above the timeout the power decision is the power-off, on what the activity stage left. -/
theorem powerOffTick : Obligations.PowerOffTick := by
  intro s time w ops act wpm hp hops hact hwpm hoff
  exact (step_render_selectFrame hp hops hact hwpm).trans
    (congrArg _ ((selectFrame_asleep hoff).trans (powerOff_record hp)))

/-- Settles O46: the power decision keeps what `selectFrame_keeps` lists, and is taken on the controller's own side. -/
theorem renderChangesAtMost : Obligations.RenderChangesAtMost := by
  intro s time w ops act wpm hp hops hact hwpm
  set now := timestamp s.params.tw time
  set v : State := { s with hostOps := ops, activityTs := act, lastWpm := wpm }
  obtain ⟨hkeepAct, hkeepWpm, hparams, hkeepOps, hdecoder⟩ := selectFrame_keeps now v
  refine ⟨selectFrame now v, step_render_selectFrame hp hops hact hwpm, hkeepAct, hkeepWpm, fun hmode => ?_, ?_⟩
  · rw [hkeepAct, hkeepWpm]
    exact ⟨hact.trans (if_neg (by simp [hmode])), hwpm.trans (if_neg (by simp [hmode]))⟩
  rcases selectFrame_onSide_cases now v with ⟨hoff, hsel⟩ | ⟨hawake, pose, k, tap, idle, hindex, hsel⟩
  · have hpower : selectFrame now v = powerOff v := hsel s.params.side
    refine ⟨?_, ?_, hkeepOps, hparams, hdecoder⟩ <;> rw [hpower]
    · exact .inl rfl
    · exact .inr ⟨hoff, rfl, powerOff_hostCalls v, rfl, rfl, rfl, rfl⟩
  · have htick : selectFrame now v = decodeFrame pose k { v with lastTick := now, tapIdx := tap, idleIdx := idle } :=
      hsel s.params.side
    refine ⟨?_, ?_, hkeepOps, hparams, hdecoder⟩ <;> rw [htick]
    · exact hindex
    · exact .inl ⟨hawake, rfl, rfl, rfl, pose, k, rfl⟩

end Sys2Proof.Machine
end

section
/-!
PROOFS. Violations and the one fault (60_exceptions.md R142 to R149): where a step can fault, what it then reports, and the
record of the first violation along a decode.
-/

namespace Sys2Proof.Machine

/-- Settles O27: the second case of `step_next_or_overrun`. -/
theorem onlyAWriteBeyondCanvasFaults : Obligations.OnlyAWriteBeyondCanvasFaults := by
  intro s f hf
  rcases step_next_or_overrun s with ⟨t, events, ht, -⟩ | ⟨hp, hl, events, v, p, w, hout, hfault⟩
  · rw [ht] at hf; cases hf
  · rw [hfault] at hf; cases hf
    exact ⟨hp, hl, events, v, p, w, rfl, hout⟩

/-- A violation once recorded stays through every step of the decode, and a step that faults reports it (60_exceptions.md
R149). -/
theorem step_keeps_violation {s : State} {x : Violation} (hp : s.phase ≠ .idle) (hx : s.violation = some x) :
    (∃ t, step s = .next t ∧ t.violation = some x) ∨ ∃ trace, step s = .fault (.overrun trace x) := by
  cases hphase : s.phase with
  | idle => exact absurd hphase hp
  | header => exact .inl ⟨_, (step_header s hphase).trans (hdrStartsTheFrame _ s), by simp [hx]⟩
  | segment =>
    rcases Nat.lt_or_ge s.i.toNat s.L.toNat with hl | hl
    · obtain ⟨item, hpos, hstep⟩ := step_segment_exec s hphase hl
      rw [hstep]
      rcases exec_segment_cases s item hpos with
        ⟨t, events, ht, -, -, -, -, -, -, -, later, hviolation⟩ | ⟨events, v, p, w, -, hfault⟩
      · exact .inl ⟨t, ht, by rw [hviolation, hx, Option.some_or]⟩
      · exact .inr ⟨_, by rw [hfault, hx, Option.getD_some]⟩
    · exact .inl ⟨_, step_end s hphase hl, by rw [finishDecode_violation, hx, Option.some_or]⟩

/-- The power decision either leaves the block idle or starts a decode, whose record is empty (41_selector.md R112, R117). -/
theorem selectFrame_phase (now : Nat) (s : State) :
    (selectFrame now s).phase = .idle ∨ (selectFrame now s).phase = .header ∧ (selectFrame now s).violation = none := by
  unfold selectFrame
  split
  · exact .inl rfl
  all_goals exact .inr ⟨rfl, rfl⟩

/-- A step of an idle block that starts a decode is a RENDER, and the decode's record is empty. -/
theorem hostStep_starts_clean {s t : State} (hp : s.phase = .idle) (h : hostStep s = .next t) (ht : t.phase = .header) :
    t.violation = none := by
  have hidle : t.phase ≠ .idle := by rw [ht]; exact Phase.noConfusion
  rcases hostStep_next_cases hp h with ⟨-, rfl⟩ | ⟨time, w, rest, -, rfl⟩ | ⟨time, rest, -, rfl⟩ | ⟨rest, -, rfl⟩
  · exact absurd hp hidle
  · rcases selectFrame_phase _ (activityStage _ w (setHostOps rest s)) with hphase | ⟨-, hnone⟩
    · exact absurd hphase hidle
    · exact hnone
  · exact absurd hp hidle
  · exact absurd hp hidle

/-- Settles O49: by `step_keeps_violation` while a decode is in progress, and by `hostStep_starts_clean` at its start. -/
theorem firstViolationIsReported : Obligations.FirstViolationIsReported := by
  refine ⟨fun s x hp hx => ?_, fun s t hp hs => hostStep_starts_clean hp (by rw [← step_idle s hp, hs])⟩
  rcases step_keeps_violation hp hx with ⟨u, hu, hkept⟩ | ⟨events, hfault⟩
  · exact ⟨fun t hs => by rw [hu] at hs; cases hs; exact hkept, fun trace w hs => nomatch hu.symm.trans hs⟩
  · exact ⟨fun t hs => (nomatch hfault.symm.trans hs), fun trace w hs => by rw [hfault] at hs; cases hs; rfl⟩

end Sys2Proof.Machine
end

section
/-!
PROOFS. Instantiated machines (60_exceptions.md R147, R168). What is left of a well-formed frame at a segment boundary is a
list of segments ahead that fills the canvas (`FillsCanvas`); each step takes the first of them, and with none left the
canvas is full. Outside a decode the Selector picks well-formed frames only.
-/

namespace Sys2Proof.Machine

/-! ### Instantiation -/

/-- The parameters at reset list no byte and no frame, so that the Frame Store and the frame table are the installed
ones. -/
theorem storeByte_configured : storeByte Params.configured = Config.installation.romByte := rfl

theorem frameTable_configured : frameTable Params.configured = Config.installation.frameBase := rfl

/-- The installation's frames are those of the parameters at reset (70_reset_and_hazards.md R163). -/
theorem allFramesOk_configured : allFramesOk Params.configured = true := by
  have hframe : wellFormedFrame Params.configured =
      frameFits Config.installation.romByte Config.installation.romSize Config.installation.canvasBytes true := by
    funext base
    rw [wellFormedFrame, storeByte_configured]
    rfl
  rw [allFramesOk, frameTable_configured, hframe]
  exact Config.installation.frames_ok

/-- Settles O51: the installation's frames are well-formed by its type. -/
theorem resetIsInstantiated : Obligations.ResetIsInstantiated := if_pos allFramesOk_configured

/-- A machine starts in the invariant with any parameters its registers can serve: every register is 0, and 0 fits. -/
theorem inv_start {p : Params} (hp : ParamsOk p) (ops : List HostOp) :
    Inv { State.reset with params := p, hostOps := ops } := by
  have htime : timestamp p.tw 0 = 0 := by
    unfold timestamp; split <;> simp
  exact {
    params_ok := hp
    canvas_wf := rfl
    canvas_below := rfl
    tapIdx_lt := hp.tapFrames_pos
    idleIdx_lt := hp.idleFrames_pos
    activityTs_fits := htime
    lastTick_fits := htime
    lastWpm_fits := Nat.zero_mod _
    base_fits := Nat.zero_mod _
    cursors := cursors_of_idle rfl }

/-- Settles O52: a machine starts idle, with no violation, in the invariant (`inv_start`) and with the frames that
`instantiate` has tested. -/
theorem instantiatedMachineIsSound : Obligations.InstantiatedMachineIsSound := by
  intro p s ops hp hpaws hs
  obtain ⟨hframes, rfl⟩ := instantiate_next hs
  exact ⟨inv_start hp ops, hframes, hpaws, rfl, Phase.noConfusion, Phase.noConfusion⟩

/-! ### What is left of a well-formed frame -/

/-- The segments ahead fill what the canvas still lacks, and none is a count-0 literal run that is not allowed
(30_encoding.md R80, seen from a segment boundary). -/
structure FillsCanvas (s : State) (segs : List Instr) : Prop where
  ahead : SegmentsAhead s segs
  full : s.cursor.toNat + (outputOf segs).length = s.params.canvasBytes
  lit0 : Lit0Ok s.params segs

/-- The condition of a sound machine at a segment boundary, in terms of the segments ahead. -/
theorem FillsCanvas.of_restFits {s : State} (hp : s.phase = .segment) (hcursors : CursorsInRange s)
    (h : restFits s = true) : ∃ segs, FillsCanvas s segs := by
  obtain ⟨hle, hstore, segs, hparse, hfit⟩ := (restFits_iff s).1 h
  obtain ⟨hbytes, hsegs⟩ := segmentBytes_of_parseSegments hparse
  obtain ⟨hfull, hlit0⟩ := (fitsCanvas_iff _ _ _).1 hfit
  have hlen : (segmentBytes segs).length = s.L.toNat - s.i.toNat := by rw [hbytes]; simp
  have hout := outputOf_length_le hsegs
  have hL := s.L.isLt
  have hcursor := hcursors.cursor_le
  have hcanvas := hcursors.cursor_le_canvas
  refine ⟨segs, ⟨hp, hsegs, by omega, hstore, ?_, by omega, by omega⟩, by omega, hlit0⟩
  rw [frameBytes_of_le s _ _ (by omega), hlen, hbytes]

/-- Segments ahead that fill the canvas parse back from the bytes that are left. -/
theorem FillsCanvas.restFits {s : State} {segs : List Instr} (h : FillsCanvas s segs) : restFits s = true := by
  obtain ⟨⟨-, hsegs, hends, hstore, hbytes, -, -⟩, hfull, hlit0⟩ := h
  have hlen : s.L.toNat - s.i.toNat = (segmentBytes segs).length := by omega
  rw [frameBytes_of_le s _ _ (by omega)] at hbytes
  refine (restFits_iff s).2 ⟨by omega, hstore, segs, ?_, (fitsCanvas_iff _ _ _).2 ⟨by omega, hlit0⟩⟩
  rw [hlen, hbytes]
  exact segmentListParsesBack segs hsegs

/-! ### What keeps a machine sound -/

/-- A machine of the same parameters, in the invariant and with no violation, is sound where its decode is one of a
well-formed frame. -/
theorem Sound.congr {s t : State} (h : Sound s) (hparams : t.params = s.params) (hinv : Inv t) (hnone : t.violation = none)
    (hheader : t.phase = .header → wellFormedFrame t.params t.base = true)
    (hsegment : t.phase = .segment → restFits t = true) : Sound t :=
  ⟨hinv, by rw [hparams]; exact h.frames, by rw [hparams]; exact h.pawsFrames_pos, hnone, hheader, hsegment⟩

/-- With no decode in progress there is no frame to ask for. -/
theorem Sound.of_idle {s t : State} (h : Sound s) (hparams : t.params = s.params) (hinv : Inv t)
    (hviolation : t.violation = s.violation) (hp : t.phase = .idle) : Sound t :=
  h.congr hparams hinv (hviolation.trans h.no_violation) (by simp [hp]) (by simp [hp])

/-- The power decision keeps a machine sound: it powers off, or starts the decode of a well-formed frame (41_selector.md
R112, R117). -/
theorem Sound.selectFrame {s : State} (h : Sound s) (hp : s.phase = .idle) {now : Nat}
    (hnow : timestamp s.params.tw now = now) : Sound (selectFrame now s) := by
  obtain ⟨-, -, hparams, -⟩ := selectFrame_keeps now s
  have hinv := inv_selectFrame h.inv hp hnow
  rcases Nat.lt_or_ge s.params.timeout (elapsedAt now s) with hoff | hawake
  · exact h.of_idle hparams hinv (by rw [selectFrame_asleep hoff, powerOff_violation])
      (by rw [selectFrame_asleep hoff, powerOff_phase])
  · obtain ⟨hphase, hnone, -, -, hwf⟩ := selectFrame_starts h.inv hp h.frames h.pawsFrames_pos hnow hawake
    exact h.congr hparams hinv hnone (fun _ => by rw [hparams]; exact hwf) (by simp [hphase])

/-- RENDER's stages up to the start of its decode keep a machine sound (41_selector.md R110). -/
theorem Sound.render {s : State} (h : Sound s) (hp : s.phase = .idle) (time w : Nat) : Sound (render time w s) := by
  have hnow := timestamp_idem s.params.tw time
  have hstage : Sound (activityStage (timestamp s.params.tw time) w s) :=
    h.of_idle (by simp) (inv_activityStage h.inv hp w hnow) (by simp) (by simpa using hp)
  exact hstage.selectFrame (by simpa using hp) (by simpa using hnow)

@[simp] theorem selectFrame_draws (now : Nat) (s : State) : (selectFrame now s).draws = s.draws := by
  unfold selectFrame
  split <;> rfl

@[simp] theorem render_draws (time w : Nat) (s : State) : (render time w s).draws = s.draws := by
  simp [render]

/-! ### Every step of a sound machine -/

/-- What a step of a sound machine answers: a sound machine again, with no byte drawn from outside the Frame Store. -/
def StepsSoundly (s : State) : Prop := ∃ t, step s = .next t ∧ Sound t ∧ t.draws = s.draws

/-- Whatever the host asks, an idle block stays sound. -/
theorem Sound.stepsSoundly_of_idle {s : State} (h : Sound s) (hp : s.phase = .idle) : StepsSoundly s := by
  obtain ⟨t, ht, hparams, -⟩ := hostStep_next s hp
  have hinv := inv_hostStep h.inv hp ht
  refine ⟨t, by rw [step_idle s hp, ht], ?_⟩
  rcases hostStep_next_cases hp ht with ⟨-, rfl⟩ | ⟨time, w, rest, -, rfl⟩ | ⟨time, rest, -, rfl⟩ | ⟨rest, -, rfl⟩
  · exact ⟨h, rfl⟩
  · have hops : Sound (setHostOps rest s) := h.of_idle rfl (inv_setHostOps h.inv hp rest) rfl hp
    exact ⟨hops.render hp time w, by simp⟩
  · exact ⟨h.of_idle hparams hinv rfl hp, rfl⟩
  · exact ⟨h.of_idle hparams hinv rfl hp, rfl⟩

/-- The header of a well-formed frame leaves all of its segments ahead, and they fill the canvas. -/
theorem Sound.stepsSoundly_of_header {s : State} (h : Sound s) (hp : s.phase = .header) : StepsSoundly s := by
  obtain ⟨segs, hstored, hfit, -⟩ := FrameStored.of_wellFormedFrame (h.header hp)
  obtain ⟨t, ht, hahead, hsame, -, hcursor, -, -, -, hviolation, hdraws⟩ := hstored.header_step hp
  obtain ⟨hfull, hlit0⟩ := (fitsCanvas_iff _ _ _).1 hfit
  have hfills : FillsCanvas t segs := by
    refine ⟨hahead, ?_, by rw [hsame.params]; exact hlit0⟩
    rw [hcursor, hsame.params, ← hfull]
    exact Nat.zero_add _
  exact ⟨t, ht, h.congr hsame.params (stepKeepsInvariant s t h.inv ht) (hviolation.trans h.no_violation)
    (by simp [hahead.phase]) fun _ => hfills.restFits, hdraws⟩

/-- A step takes the first segment ahead, whose output was counted, and the others still fill the canvas; with none left the
canvas is full and the decode ends. -/
theorem Sound.stepsSoundly_of_segment {s : State} (h : Sound s) (hp : s.phase = .segment) : StepsSoundly s := by
  obtain ⟨segs, hahead, hfull, hlit0⟩ := FillsCanvas.of_restFits hp (h.inv.cursors hp) (h.segment hp)
  cases segs with
  | nil =>
    have hstep := step_end s hp hahead.ends.ge
    have hfilled : underfilled s = false := decide_eq_false (Nat.not_lt.2 hfull.ge)
    refine ⟨_, hstep, ?_, finishDecode_draws s⟩
    refine h.of_idle (finishDecode_params s) (stepKeepsInvariant s _ h.inv hstep) ?_ (finishDecode_phase s)
    simp [hfilled]
  | cons x segs =>
    obtain ⟨t, ht, hran, hlater⟩ := hahead.step_ran
    obtain ⟨hx, hrest⟩ : Lit0Ok s.params [x] ∧ Lit0Ok s.params segs := by
      simpa [Lit0Ok, or_and_left] using hlit0
    have hfills : FillsCanvas t segs := by
      refine ⟨hlater, ?_, by rw [hran.same.params]; exact hrest⟩
      rw [hran.cursor, hran.same.params, ← hfull]
      simp [Nat.add_assoc]
    exact ⟨t, ht, h.congr hran.same.params (stepKeepsInvariant s t h.inv ht) ((hran.violation hx).trans h.no_violation)
      (by simp [hlater.phase]) fun _ => hfills.restFits, hran.draws⟩

/-- Settles O53, by what the Decoder is doing. -/
theorem soundMachineNeverFails : Obligations.SoundMachineNeverFails := by
  intro s h
  cases hp : s.phase with
  | idle => exact h.stepsSoundly_of_idle hp
  | header => exact h.stepsSoundly_of_header hp
  | segment => exact h.stepsSoundly_of_segment hp

end Sys2Proof.Machine
end

section
/-!
PROOFS. The parameters and the idle block (70_reset_and_hazards.md R161, R171, R172): no operation of the host and no item
of a frame writes a parameter, and an idle block with nothing to take stays as it is.
-/

namespace Sys2Proof.Machine

/-- The step of an idle block, whichever host operation it takes, writes no parameter (70_reset_and_hazards.md R171). -/
theorem hostStep_keeps_params {s t : State} (hp : s.phase = .idle) (h : hostStep s = .next t) : t.params = s.params := by
  rcases hostStep_next_cases hp h with ⟨-, rfl⟩ | ⟨time, w, rest, -, rfl⟩ | ⟨time, rest, -, rfl⟩ | ⟨rest, -, rfl⟩
  · rfl
  · rw [render_params, setHostOps_params]
  · rw [activity_params, setHostOps_params]
  · rw [rotation_params, setHostOps_params]

/-- Settles O25: a host step takes one of the host's operations (`hostStep_keeps_params`), and a step of a decode keeps the
host's side of the state, the parameters with it (`step_hostSideSame`). -/
theorem stepKeepsParameters : Obligations.StepKeepsParameters := by
  intro s t h
  by_cases hp : s.phase = .idle
  · rw [step_idle s hp] at h
    exact hostStep_keeps_params hp h
  · exact (step_hostSideSame hp h).params

/-- Settles O33: the step of an idle block is the host's, which has no operation to give. -/
theorem idleBlockWaitsForTheHost : Obligations.IdleBlockWaitsForTheHost := by
  intro s hp hops
  rw [step_idle s hp, hostStep, hops]

end Sys2Proof.Machine
end

section
/-!
PROOFS. A table word stored by `withFetchWord` (log entries 24, 25). Bytes loaded into the Frame Store are read back at
their offsets of the frame, the fetch takes of them exactly the item they decode to, and the step runs what is fetched.
-/

namespace Sys2Proof.Machine

/-! ### Loaded bytes are read back -/

/-- A loaded byte is the compiled-in byte at its address, whatever stood there before (20_memory.md R51). -/
theorem storeByte_loadBytes (base addr : Nat) (bytes : List Byte) (p : Params) (k : Nat) (hk : k < bytes.length) :
    storeByte (loadBytes base addr bytes p) (addr + k) = bytes[k] := by
  have hin : addr ≤ addr + k ∧ addr + k < addr + bytes.length := by omega
  rw [storeByte, loadBytes, Memory.read_writeAll, if_pos hin, Nat.add_sub_cancel_left, List.getElem?_eq_getElem hk,
    Option.getD_some]

/-- The frame's bytes from the offset where bytes are loaded are those bytes; the Frame Store that `loadBytes` makes has
512 of them from `base` on. -/
theorem frameBytes_of_loadBytes {s : State} {off : Nat} {bytes : List Byte} {p : Params}
    (hload : s.params = loadBytes s.base (s.base + off) bytes p) (hroom : off + bytes.length ≤ 512) {count : Nat}
    (hcount : count ≤ bytes.length) : frameBytes s off count = bytes.take count := by
  refine List.ext_getElem (by simp [hcount]) fun k hk _ => ?_
  rw [frameBytes_length] at hk
  have hsize : s.params.romSize = s.base + 512 := by rw [hload, loadBytes]
  rw [getElem_frameBytes, frameByte_of_lt s (off + k) (by omega), hload, ← Nat.add_assoc,
    storeByte_loadBytes _ _ _ _ k (by omega), List.getElem_take]

/-- Where the bytes loaded begin with those of an item, the item's bytes stand in the frame. -/
theorem frameBytes_of_loaded_item {s : State} {off : Nat} {x : Instr} {rest : List Byte} {p : Params}
    (hload : s.params = loadBytes s.base (s.base + off) (encode x ++ rest) p)
    (hroom : off + (encode x ++ rest).length ≤ 512) : frameBytes s off x.size = encode x := by
  rw [frameBytes_of_loadBytes hload hroom (by simp), List.take_left' (encode_length x)]

/-! ### The placed item is fetched and run -/

/-- What is fetched of the bytes placed at a position is the item they decode to, without the bytes after it. -/
theorem fetchBytes_placeInstr {pos : Position} {bytes rest : List Byte} {x : Instr} (s : State)
    (hdecode : decode pos bytes = .ok x rest) (hroom : bytes.length < 512) :
    fetchBytes (placeInstr pos bytes s) pos = encode x := by
  have hwf := decode_wf hdecode
  obtain ⟨hpos, rfl⟩ := encode_of_decode hdecode
  cases pos with
  | header =>
    cases x with
    | hdr l => exact frameBytes_of_loaded_item (off := 0) (x := .hdr l) rfl (by omega)
    | lit n payload => cases hpos
    | rep n v => cases hpos
  | segment => exact fetchBytes_of_encode hpos hwf (frameBytes_of_loaded_item (off := 1) rfl (by omega))

/-- The step from a state where bytes were placed is the meaning of the item they decode to. -/
theorem step_placeInstr {pos : Position} {bytes rest : List Byte} {x : Instr} (s : State)
    (hdecode : decode pos bytes = .ok x rest) (hroom : bytes.length < 512) :
    step (placeInstr pos bytes s) = exec x (placeInstr pos bytes s) := by
  have hpos := (encode_of_decode hdecode).1
  have hfetched : decode pos (fetchBytes (placeInstr pos bytes s) pos) = .ok x [] := by
    have hself := decode_encode (decode_wf hdecode) []
    rwa [hpos, List.append_nil, ← fetchBytes_placeInstr s hdecode hroom] at hself
  obtain ⟨hheader, hsegment⟩ := stepRunsDecodedItem
  cases pos with
  | header => exact hheader _ x [] rfl hfetched
  | segment =>
    have hbeforeEnd : (1 : ReadCursor).toNat < (255 : Byte).toNat := by decide
    exact hsegment _ x [] rfl hbeforeEnd hfetched

/-- A table word's instruction is what its bytes decode to at the word's position. -/
theorem decode_of_decodeTableWord {nbits w : Nat} {x : Instr} (h : decodeTableWord nbits w = some x) :
    ∃ rest, decode (tablePosition nbits w) (tableBytes longestInstr (tableWord nbits w)) = .ok x rest := by
  rw [decodeTableWord] at h
  split at h
  next y rest hdecode => exact ⟨rest, by rw [hdecode, Option.some.inj h]⟩
  next => cases h

/-- Settles O8: `withFetchWord` places the word's bytes, 128 of them, at the position they are decoded at, and
`step_placeInstr` runs what they decode to. -/
theorem stepRunsStoredTableWord : Obligations.StepRunsStoredTableWord := by
  intro s nbits w x h
  obtain ⟨rest, hdecode⟩ := decode_of_decodeTableWord h
  have hroom : (tableBytes longestInstr (tableWord nbits w)).length < 512 := by
    rw [tableBytes_length, longestInstr]; decide
  exact step_placeInstr s hdecode hroom

end Sys2Proof.Machine
end
